-- ==== Sys2Proof/Word.lean ====
section
/-! DEFINITION. The words of the engine: bytes, the 16-bit command and status words, the 12-bit request word (R55), the
25-bit response payload and the 28-bit response word (R58). Bit 0 is the least significant bit (R10). -/

namespace Sys2Proof

/-- One byte on the bus or in `BUF` (R10, R15). -/
abbrev Byte := BitVec 8

/-- A 16-bit command or status word (R17, R60). -/
abbrev Word16 := BitVec 16

/-- The request word: `op` in bits 11:8, `arg` in bits 7:0 (R55). -/
abbrev ReqWord := BitVec 12

/-- The payload of a response (R58). -/
abbrev Payload := BitVec 25

/-- The response word: result code in bits 27:25, payload in bits 24:0 (R58). -/
abbrev RespWord := BitVec 28

end Sys2Proof
end

