-- ==== Sys2Proof/Syntax.lean ====
section
/-! DEFINITION. The operations (R56) and the 32 instructions of the opcode table (R72), one constructor a row.  An operand
is the request word's whole `arg` byte: the address of CONSTRUCT, and for the ten operations that ignore it the byte that
is latched into `ARG` all the same (R57, R76). -/

namespace Sys2Proof

/-- The ten operations that make a bus transaction (R76, R90): the domain of the Command Catalog (R64). -/
inductive BusOp where
  | meas
  | periodic
  | fetch
  | brk
  | sreset
  | rdstat
  | clrstat
  | heaton
  | heatoff
  | art
deriving DecidableEq, Repr

/-- The thirteen operations (R56): CONSTRUCT, the ten bus operations, the two accessors. -/
inductive Op where
  | construct
  | bus (b : BusOp)
  | gett
  | getrh
deriving DecidableEq, Repr

/-- The instructions: an operation together with its mode where it has one (R56). -/
inductive Instr where
  | construct (arg : Byte)
  | meas1
  | meas2
  | meas3
  | meas4
  | meas5
  | meas6
  | periodic1
  | periodic2
  | periodic3
  | periodic4
  | periodic5
  | periodic6
  | periodic7
  | periodic8
  | periodic9
  | periodic10
  | periodic11
  | periodic12
  | periodic13
  | periodic14
  | periodic15
  | fetch (arg : Byte)
  | brk (arg : Byte)
  | sreset (arg : Byte)
  | rdstat (arg : Byte)
  | clrstat (arg : Byte)
  | heaton (arg : Byte)
  | heatoff (arg : Byte)
  | art (arg : Byte)
  | gett (arg : Byte)
  | getrh (arg : Byte)
deriving DecidableEq, Repr

end Sys2Proof
end

