-- ==== Sys2Proof/WellFormed.lean ====
section
/-! DEFINITION. Which instructions the request encoding has: CONSTRUCT's address is a 7-bit one, `arg[7]` being 0 (R57 b,
R67 b).  Every other operand byte is admitted. -/

namespace Sys2Proof

/-- The operand is one the encoding admits (R57, R67). -/
def Instr.wellFormed : Instr → Bool
  | .construct arg => !arg.msb
  | .meas1 => true
  | .meas2 => true
  | .meas3 => true
  | .meas4 => true
  | .meas5 => true
  | .meas6 => true
  | .periodic1 => true
  | .periodic2 => true
  | .periodic3 => true
  | .periodic4 => true
  | .periodic5 => true
  | .periodic6 => true
  | .periodic7 => true
  | .periodic8 => true
  | .periodic9 => true
  | .periodic10 => true
  | .periodic11 => true
  | .periodic12 => true
  | .periodic13 => true
  | .periodic14 => true
  | .periodic15 => true
  | .fetch _ => true
  | .brk _ => true
  | .sreset _ => true
  | .rdstat _ => true
  | .clrstat _ => true
  | .heaton _ => true
  | .heatoff _ => true
  | .art _ => true
  | .gett _ => true
  | .getrh _ => true

/-- `Instr.wellFormed` as a proposition. -/
abbrev WellFormed (i : Instr) : Prop := i.wellFormed = true

end Sys2Proof
end

