-- ==== Sys2Proof/Decode.lean ====
section
/-! DEFINITION. From request words to instructions and back (R55 to R57, R67, R72).  `decode` is total and rejects by name:
the two reserved encodings of R67, and the mode indexes outside the catalog's tables, which are no reserved encodings but
requests that fail with `InvalidMode` (R57, R67 c, R150). -/

namespace Sys2Proof

/-- Why a request word is no instruction of the opcode table. -/
inductive DecodeError where
  /-- `op` is 13, 14 or 15 (R67 a). -/
  | reservedOp (w : ReqWord)
  /-- CONSTRUCT with `arg[7] = 1` (R67 b). -/
  | reservedAddress (arg : Byte)
  /-- MEAS or PERIODIC with a mode outside its table: the request fails with `InvalidMode` (R67 c, R150). -/
  | invalidMode (op : BusOp) (arg : Byte)
deriving DecidableEq, Repr

/-- `op`, bits 11:8 of the request word (R55). -/
def opField (w : ReqWord) : BitVec 4 := w.extractLsb' 8 4

/-- `arg`, bits 7:0 of the request word (R55). -/
def argField (w : ReqWord) : Byte := w.extractLsb' 0 8

/-- The `op` number of a bus operation (R56). -/
def BusOp.code : BusOp → BitVec 4
  | .meas => 1#4
  | .periodic => 2#4
  | .fetch => 3#4
  | .brk => 4#4
  | .sreset => 5#4
  | .rdstat => 6#4
  | .clrstat => 7#4
  | .heaton => 8#4
  | .heatoff => 9#4
  | .art => 10#4

/-- The `op` number of an operation (R56). -/
def Op.code : Op → BitVec 4
  | .construct => 0#4
  | .bus b => b.code
  | .gett => 11#4
  | .getrh => 12#4

/-- The operation an `op` number names, or none for the reserved numbers 13 to 15 (R56, R67 a). -/
def Op.ofCode (c : BitVec 4) : Option Op :=
  match c.toNat with
  | 0 => some .construct
  | 1 => some (.bus .meas)
  | 2 => some (.bus .periodic)
  | 3 => some (.bus .fetch)
  | 4 => some (.bus .brk)
  | 5 => some (.bus .sreset)
  | 6 => some (.bus .rdstat)
  | 7 => some (.bus .clrstat)
  | 8 => some (.bus .heaton)
  | 9 => some (.bus .heatoff)
  | 10 => some (.bus .art)
  | 11 => some .gett
  | 12 => some .getrh
  | _ => none

/-- The single-shot instruction of a mode index, 1-based (R57 a). -/
def measOfMode (m : Nat) : Option Instr :=
  match m with
  | 1 => some .meas1
  | 2 => some .meas2
  | 3 => some .meas3
  | 4 => some .meas4
  | 5 => some .meas5
  | 6 => some .meas6
  | _ => none

/-- The periodic instruction of a mode index, 1-based (R57 a). -/
def periodicOfMode (m : Nat) : Option Instr :=
  match m with
  | 1 => some .periodic1
  | 2 => some .periodic2
  | 3 => some .periodic3
  | 4 => some .periodic4
  | 5 => some .periodic5
  | 6 => some .periodic6
  | 7 => some .periodic7
  | 8 => some .periodic8
  | 9 => some .periodic9
  | 10 => some .periodic10
  | 11 => some .periodic11
  | 12 => some .periodic12
  | 13 => some .periodic13
  | 14 => some .periodic14
  | 15 => some .periodic15
  | _ => none

/-- An instruction where the mode has one, `InvalidMode` otherwise (R57 a). -/
def orInvalidMode (op : BusOp) (arg : Byte) : Option Instr → Except DecodeError Instr
  | some i => .ok i
  | none => .error (.invalidMode op arg)

/-- Operand decoding (R57): the mode index, the 7-bit address, or a byte that selects nothing. -/
def decodeOperand (op : Op) (arg : Byte) : Except DecodeError Instr :=
  match op with
  | .construct => if arg.msb then .error (.reservedAddress arg) else .ok (.construct arg)
  | .bus .meas => orInvalidMode .meas arg (measOfMode arg.toNat)
  | .bus .periodic => orInvalidMode .periodic arg (periodicOfMode arg.toNat)
  | .bus .fetch => .ok (.fetch arg)
  | .bus .brk => .ok (.brk arg)
  | .bus .sreset => .ok (.sreset arg)
  | .bus .rdstat => .ok (.rdstat arg)
  | .bus .clrstat => .ok (.clrstat arg)
  | .bus .heaton => .ok (.heaton arg)
  | .bus .heatoff => .ok (.heatoff arg)
  | .bus .art => .ok (.art arg)
  | .gett => .ok (.gett arg)
  | .getrh => .ok (.getrh arg)

/-- The decoder: the operation by bits 11:8, then its operand from bits 7:0 (R55 to R57, R67). -/
def decode (w : ReqWord) : Except DecodeError Instr :=
  match Op.ofCode (opField w) with
  | some op => decodeOperand op (argField w)
  | none => .error (.reservedOp w)

/-- The operation an instruction is a row of (R56, R72). -/
def Instr.op : Instr → Op
  | .construct _ => .construct
  | .meas1 => .bus .meas
  | .meas2 => .bus .meas
  | .meas3 => .bus .meas
  | .meas4 => .bus .meas
  | .meas5 => .bus .meas
  | .meas6 => .bus .meas
  | .periodic1 => .bus .periodic
  | .periodic2 => .bus .periodic
  | .periodic3 => .bus .periodic
  | .periodic4 => .bus .periodic
  | .periodic5 => .bus .periodic
  | .periodic6 => .bus .periodic
  | .periodic7 => .bus .periodic
  | .periodic8 => .bus .periodic
  | .periodic9 => .bus .periodic
  | .periodic10 => .bus .periodic
  | .periodic11 => .bus .periodic
  | .periodic12 => .bus .periodic
  | .periodic13 => .bus .periodic
  | .periodic14 => .bus .periodic
  | .periodic15 => .bus .periodic
  | .fetch _ => .bus .fetch
  | .brk _ => .bus .brk
  | .sreset _ => .bus .sreset
  | .rdstat _ => .bus .rdstat
  | .clrstat _ => .bus .clrstat
  | .heaton _ => .bus .heaton
  | .heatoff _ => .bus .heatoff
  | .art _ => .bus .art
  | .gett _ => .gett
  | .getrh _ => .getrh

/-- The `arg` byte of an instruction's request word: the mode where it has one (R55, R72). -/
def Instr.arg : Instr → Byte
  | .construct a => a
  | .meas1 => 1#8
  | .meas2 => 2#8
  | .meas3 => 3#8
  | .meas4 => 4#8
  | .meas5 => 5#8
  | .meas6 => 6#8
  | .periodic1 => 1#8
  | .periodic2 => 2#8
  | .periodic3 => 3#8
  | .periodic4 => 4#8
  | .periodic5 => 5#8
  | .periodic6 => 6#8
  | .periodic7 => 7#8
  | .periodic8 => 8#8
  | .periodic9 => 9#8
  | .periodic10 => 10#8
  | .periodic11 => 11#8
  | .periodic12 => 12#8
  | .periodic13 => 13#8
  | .periodic14 => 14#8
  | .periodic15 => 15#8
  | .fetch a => a
  | .brk a => a
  | .sreset a => a
  | .rdstat a => a
  | .clrstat a => a
  | .heaton a => a
  | .heatoff a => a
  | .art a => a
  | .gett a => a
  | .getrh a => a

/-- The request word of an operation and an operand byte: `op * 256 + operand` (R55, R69). -/
def requestWord (op : Op) (arg : Byte) : ReqWord := op.code ++ arg

/-- The encoder: the request word of an instruction (R55, R72). -/
def encode (i : Instr) : ReqWord := requestWord i.op i.arg

/-- The source line `MNEMONIC` or `MNEMONIC operand` as a request word, the operand 0 when absent (R69).  An operand
above 255 is no line of a program. -/
def assemble (op : Op) (operand : Option Nat) : Option ReqWord :=
  if operand.getD 0 < 256 then some (requestWord op (BitVec.ofNat 8 (operand.getD 0))) else none

/-- The mnemonic of an operation (R56). -/
def Op.mnemonic : Op → String
  | .construct => "CONSTRUCT"
  | .bus .meas => "MEAS"
  | .bus .periodic => "PERIODIC"
  | .bus .fetch => "FETCH"
  | .bus .brk => "BREAK"
  | .bus .sreset => "SRESET"
  | .bus .rdstat => "RDSTAT"
  | .bus .clrstat => "CLRSTAT"
  | .bus .heaton => "HEATON"
  | .bus .heatoff => "HEATOFF"
  | .bus .art => "ART"
  | .gett => "GETT"
  | .getrh => "GETRH"

/-- The decoder on a word numbered as the opcode table numbers it.  A request is one 12-bit word (R55, R68), so a number
with a bit above bit 11 is no request word. -/
def decodeTableWord (_nbits w : Nat) : Option Instr :=
  if w < 4096 then (decode (BitVec.ofNat 12 w)).toOption else none

end Sys2Proof
end

