-- ==== Sys2Proof/Config.lean ====
section
/-! DEFINITION. What an implementation fixes: the constants of R6, the parameters the spec leaves open (R7) as one plain
record, and the free values that stand for the transport, the other bus masters and the timer (R9, R38) where no scripted
input says what they do. -/

namespace Sys2Proof

/-- The seven outcomes a transport call can have, in the order of R66. -/
inductive BusOutcome where
  | success
  | payloadTooLong
  | addressNack
  | dataNack
  | otherError
  | timeout
  | noDataAvailable
deriving DecidableEq, Repr, Inhabited

/-- One answer of the transport to one call (R38, R39): an outcome and, for a read, the bytes received.  A write uses the
outcome only.  Nothing constrains either part, the number of bytes included. -/
structure Answer where
  outcome : BusOutcome
  data    : List Byte
deriving DecidableEq, Repr, Inhabited

/-- What `FP_FORMAT` may name (R7, R136): an IEEE 754 binary format, which is a precision and an exponent range; the range
is given by the width of the exponent field, `emax = 2 ^ (expBits - 1) - 1` (log 19). -/
structure FpFormat where
  /-- Significand bits, the leading one included. -/
  precision : Nat
  /-- Exponent field width. -/
  expBits : Nat
deriving DecidableEq, Repr, Inhabited

/-- IEEE 754 binary16. -/
def FpFormat.binary16 : FpFormat := ⟨11, 5⟩

/-- IEEE 754 binary32, the default (R136). -/
def FpFormat.binary32 : FpFormat := ⟨24, 8⟩

/-- IEEE 754 binary64. -/
def FpFormat.binary64 : FpFormat := ⟨53, 11⟩

/-- IEEE 754 binary128. -/
def FpFormat.binary128 : FpFormat := ⟨113, 15⟩

/-- `MEAS_LEN`: bytes read after a measurement or fetch command (R6). -/
def measLen : Nat := 6

/-- `STAT_LEN`: bytes read after the status command, two data bytes and one checksum byte (R6). -/
def statLen : Nat := 3

/-- `BUF_LEN`: bytes in the raw measurement buffer (R6). -/
def bufLen : Nat := 6

/-- `T_DELAY_MIN`: the forced delay's minimum, in milliseconds (R6). -/
def tDelayMin : Nat := 10

/-- The parameters the source leaves open (R7).  The four command words the source prints and the high byte of periodic
modes 13 to 15 are no parameters (D19): they stand in the catalog itself. -/
structure Config where
  /-- `CMD_SS[2..5]` (R61). -/
  cmdSS2 : Word16
  cmdSS3 : Word16
  cmdSS4 : Word16
  cmdSS5 : Word16
  /-- `CMD_PER[2..12]` (R62). -/
  cmdPer2 : Word16
  cmdPer3 : Word16
  cmdPer4 : Word16
  cmdPer5 : Word16
  cmdPer6 : Word16
  cmdPer7 : Word16
  cmdPer8 : Word16
  cmdPer9 : Word16
  cmdPer10 : Word16
  cmdPer11 : Word16
  cmdPer12 : Word16
  /-- The low bytes of `CMD_PER[13]` and `CMD_PER[14]`; the high byte is 0x23 from the source (R62, C8). -/
  cmdPer13Low : Byte
  cmdPer14Low : Byte
  /-- The eight fixed command words (R63). -/
  cmdFetch : Word16
  cmdBreak : Word16
  cmdSreset : Word16
  cmdArt : Word16
  cmdHeaton : Word16
  cmdHeatoff : Word16
  cmdRdstat : Word16
  cmdClrstat : Word16
  /-- `FP_FORMAT` (R7, R136). -/
  fpFormat : FpFormat
  /-- `T_DELAY - T_DELAY_MIN` in milliseconds, so that `T_DELAY >= T_DELAY_MIN` holds by construction (R7). -/
  tDelayExtra : Nat
  /-- `READ_AFTER_FAILED_WRITE` (R7, R78). -/
  readAfterFailedWrite : Bool
  /-- `DELAY_ON_FAILED_WRITE` (R7, R82). -/
  delayOnFailedWrite : Bool
  /-- `SHARED_CHANNEL` (R7, R77). -/
  sharedChannel : Bool
deriving DecidableEq, Repr

/-- `T_DELAY`: the length of the forced delay in milliseconds (R7, R86). -/
def Config.tDelay (c : Config) : Nat := tDelayMin + c.tDelayExtra

/-- The spec's defaults (R7, R61 to R63).  The 25 command words are PRESUMED by the spec itself, from general knowledge of
the sensor (G2, log 3); `tDelayExtra = 0` is a DESIGN CHOICE (log 4). -/
def Config.default : Config where
  cmdSS2 := 0x2C0D#16
  cmdSS3 := 0x2C10#16
  cmdSS4 := 0x2400#16
  cmdSS5 := 0x240B#16
  cmdPer2 := 0x2024#16
  cmdPer3 := 0x202F#16
  cmdPer4 := 0x2130#16
  cmdPer5 := 0x2126#16
  cmdPer6 := 0x212D#16
  cmdPer7 := 0x2236#16
  cmdPer8 := 0x2220#16
  cmdPer9 := 0x222B#16
  cmdPer10 := 0x2334#16
  cmdPer11 := 0x2322#16
  cmdPer12 := 0x2329#16
  cmdPer13Low := 0x37#8
  cmdPer14Low := 0x21#8
  cmdFetch := 0xE000#16
  cmdBreak := 0x3093#16
  cmdSreset := 0x30A2#16
  cmdArt := 0x2B32#16
  cmdHeaton := 0x306D#16
  cmdHeatoff := 0x3066#16
  cmdRdstat := 0xF32D#16
  cmdClrstat := 0x3041#16
  fpFormat := .binary32
  tDelayExtra := 0
  readAfterFailedWrite := false
  delayOnFailedWrite := true
  sharedChannel := false

/-- FREE VALUE: the answer of the transport to its `n`-th call, where the script holds none (R38, U8, U9, log 5). -/
opaque Config.freeAnswer : Nat → Answer

/-- FREE VALUE: whether the channel is free at the `n`-th question, where no input says so (R77, U15, log 6). -/
opaque Config.freeChannel : Nat → Bool

/-- FREE VALUE: how many questions in a row the timer answers no before its `n`-th yes, where no input says so (R86, U14,
log 7).  It is a number, so the yes comes: the fairness of R86, R187 and D20. -/
opaque Config.freeTimerGap : Nat → Nat

/-- FREE VALUE: the bits of a NaN that IEEE 754 leaves open, sign and payload (log 23). -/
opaque Config.freeNaN : Nat

end Sys2Proof
end

