-- ==== Sys2Proof/Machine/State.lean ====
section
/-! DEFINITION. Everything the spec gives the engine (R13), the parameters of R7, and the ends of its two outside
interfaces (R8, R9): what the host has asked and the transport, the channel and the timer will answer, and the events that
went out.  The engine has no memory of its own (R35). -/

namespace Sys2Proof.Machine

/-- The result of an operation (R66): the seven outcomes, and `InvalidMode`, which the engine alone produces. -/
inductive Result where
  | success
  | payloadTooLong
  | addressNack
  | dataNack
  | otherError
  | timeout
  | noDataAvailable
  | invalidMode
deriving DecidableEq, Repr

/-- The phases of the sequencer, values 0 to 6 of `SEQ`; value 7 does not exist (R20, U24). -/
inductive Phase where
  | idle
  | acq
  | write
  | read
  | rel
  | delay
  | resp
deriving DecidableEq, Repr

/-- The events on the transport port, the delay timer and the response port (R8).  A `read` records the transport's answer
as it came, before the engine classifies it (R80). -/
inductive Event where
  | acquire
  | write (addr : Byte) (bytes : List Byte) (o : BusOutcome)
  | read (addr : Byte) (n : Nat) (o : BusOutcome) (data : List Byte)
  | release
  /-- The delay timer is started for a wait of `ms` milliseconds (R86). -/
  | delayStart (ms : Nat)
  | delayDone
  | response (r : Result) (payload : Payload)
deriving DecidableEq, Repr

/-- `BUF[0]` to `BUF[5]`, the Raw Measurement Buffer (R15). -/
structure Buf where
  b0 : Byte
  b1 : Byte
  b2 : Byte
  b3 : Byte
  b4 : Byte
  b5 : Byte
deriving DecidableEq, Repr

/-- Six zero bytes (R27). -/
def Buf.zero : Buf := ⟨0, 0, 0, 0, 0, 0⟩

/-- The registers the source's data model names, and `CONSTRUCTED` (R13 to R19). -/
structure Regs where
  /-- `ADDR`, 7 bits (R14). -/
  addr : BitVec 7
  /-- `BUF[0..5]`, 6 x 8 bits (R15). -/
  buf : Buf
  /-- `TEMP_NUM`, 25 bits, two's complement (R16). -/
  tempNum : BitVec 25
  /-- `RH_NUM`, 23 bits, unsigned (R16). -/
  rhNum : BitVec 23
  /-- `STATUS`, 16 bits (R17). -/
  status : Word16
  /-- `HEATER_ON`, 1 bit (R18). -/
  heaterOn : Bool
  /-- `CONSTRUCTED`, 1 bit (R19). -/
  constructed : Bool
deriving DecidableEq, Repr

/-- The in-flight latches (R22).  `OP` (4 bits) only ever holds one of the ten bus operations (R76), so its type is theirs;
`WOUT` and `ROUT` (3 bits each) only ever hold outcomes. -/
structure Latches where
  op : BusOp
  /-- `ARG`, 8 bits. -/
  arg : Byte
  /-- `CMD`, 16 bits. -/
  cmd : Word16
  /-- `RLEN`, 3 bits: 0, 3 or 6. -/
  rlen : BitVec 3
  wout : BusOutcome
  rout : BusOutcome
  /-- `RDATA`, up to 6 bytes. -/
  rdata : List Byte
deriving DecidableEq, Repr

/-- The engine's outside (the model's own fields, log 5 to 8).  The four inputs are lists that the step consumes in order;
where one is empty, a free value of Config speaks, numbered by the counter beside it. -/
structure Ports where
  /-- The request words the host will issue, in order (R8, R9 b). -/
  requests : List ReqWord
  /-- The transport's script: its answers, one a call, in order (R38; the notation of 95_test_vectors.md). -/
  answers : List Answer
  /-- How many transport calls have been answered. -/
  answered : Nat
  /-- Whether the channel is free, asked by `ACQ` under `SHARED_CHANNEL` (R77). -/
  channel : List Bool
  /-- How often the channel was asked for. -/
  channelAsked : Nat
  /-- Whether the delay has run out, asked in `DELAY` (R86). -/
  timer : List Bool
  /-- How often the timer was asked. -/
  timerAsked : Nat
  /-- The events so far, oldest first: an output, read by no rule (R165). -/
  trace : List Event
deriving DecidableEq, Repr

/-- The state of the engine (R13), with its parameters (R7) and ports (R8). -/
structure State where
  /-- The parameters: no step writes them (R25). -/
  cfg : Config
  regs : Regs
  /-- `SEQ` (R20). -/
  seq : Phase
  /-- `CHAN_HELD` (R21). -/
  chanHeld : Bool
  lat : Latches
  ports : Ports
deriving DecidableEq, Repr

/-- The engine has no fault of its own and no stuck state (R168): no constructor. -/
inductive Fault where
deriving DecidableEq, Repr

/-- The requests the engine gives no step (R168).  Each is safe: the spec says the engine has no behaviour there. -/
inductive Refusal where
  /-- An instruction without a meaning in this model.  No arm of `exec` raises it.  Safe. -/
  | notModelled (mnemonic : String)
  /-- A reserved request word, raised on acceptance (R67 a, b).  Safe. -/
  | reservedRequest (w : ReqWord)
  /-- CONSTRUCT with `arg[7] = 1`, raised by its meaning on an operand the decoder never yields (R67 b, R141 e).  Safe. -/
  | reservedAddress (arg : Byte)
  /-- A request other than CONSTRUCT while `CONSTRUCTED = 0`, raised by every other meaning (R173).  Safe. -/
  | notConstructed
  /-- A request put to the engine while `SEQ != IDLE` (R75, U7).  `step` never does so.  Safe. -/
  | busy
deriving DecidableEq, Repr

/-- The registers right after CONSTRUCT with address `a` (R27). -/
def Regs.afterConstruct (a : BitVec 7) : Regs where
  addr := a
  buf := Buf.zero
  tempNum := 0
  rhNum := 0
  status := 0
  heaterOn := false
  constructed := true

/-- The registers at power-on, before the first CONSTRUCT (R28): `CONSTRUCTED = 0`; the zeros are a DESIGN CHOICE, the spec
gives the others no value (log 2). -/
def Regs.powerOn : Regs where
  addr := 0
  buf := Buf.zero
  tempNum := 0
  rhNum := 0
  status := 0
  heaterOn := false
  constructed := false

/-- The latches at reset: no value that matters (R22, U6).  DESIGN CHOICE (log 2). -/
def Latches.zero : Latches where
  op := .meas
  arg := 0
  cmd := 0
  rlen := 0
  wout := .success
  rout := .success
  rdata := []

/-- Nothing asked, nothing scripted, nothing sent. -/
def Ports.empty : Ports where
  requests := []
  answers := []
  answered := 0
  channel := []
  channelAsked := 0
  timer := []
  timerAsked := 0
  trace := []

/-- Power-on, before any CONSTRUCT (R28, R172). -/
def State.powerOn : State where
  cfg := Config.default
  regs := Regs.powerOn
  seq := .idle
  chanHeld := false
  lat := Latches.zero
  ports := Ports.empty

/-- The address `State.reset` holds: the only address the source shows (R14).  DESIGN CHOICE (log 1). -/
def resetAddress : BitVec 7 := 0x44#7

/-- The machine right after reset.  "The engine's reset is the CONSTRUCT operation" (R171), so every element has the value
of R27's table. -/
def State.reset : State where
  cfg := Config.default
  regs := Regs.afterConstruct resetAddress
  seq := .idle
  chanHeld := false
  lat := Latches.zero
  ports := Ports.empty

end Sys2Proof.Machine
end

