-- ==== Sys2Proof/Machine/Operands.lean ====
section
/-! DEFINITION. Operand forms: the address handed to the transport (R79), byte orders (R40 to R42), the Command Catalog
(R60 to R64), read lengths and the forced delay per operation (R45, R90), and the numbers of phases and results (R20, R66). -/

namespace Sys2Proof.Machine

/-- `{hi, lo}`: two bytes as a 16-bit word, most significant byte first (R10, R41, R42). -/
def be16 (hi lo : Byte) : Word16 := hi ++ lo

/-- The bytes of a command word in the order they are written: `[CMD[15:8], CMD[7:0]]` (R40, R60). -/
def cmdBytes (c : Word16) : List Byte := [c.extractLsb' 8 8, c.extractLsb' 0 8]

/-- `zext_8(ADDR)`: the address of every write and read, unshifted (R79). -/
def busAddress (a : BitVec 7) : Byte := a.setWidth 8

/-- The address operand of CONSTRUCT, `arg[6:0]` (R57 b). -/
def addressOperand (arg : Byte) : BitVec 7 := arg.extractLsb' 0 7

/-- `CMD_SS[m]` (R61); modes 1 and 6 are printed in the source. -/
def catalogSingleShot (c : Config) (m : Nat) : Option Word16 :=
  match m with
  | 1 => some 0x2C06#16
  | 2 => some c.cmdSS2
  | 3 => some c.cmdSS3
  | 4 => some c.cmdSS4
  | 5 => some c.cmdSS5
  | 6 => some 0x2416#16
  | _ => none

/-- `CMD_PER[m]` (R62); modes 1 and 15 and the high byte of modes 13 and 14 are printed in the source (C8). -/
def catalogPeriodic (c : Config) (m : Nat) : Option Word16 :=
  match m with
  | 1 => some 0x2032#16
  | 2 => some c.cmdPer2
  | 3 => some c.cmdPer3
  | 4 => some c.cmdPer4
  | 5 => some c.cmdPer5
  | 6 => some c.cmdPer6
  | 7 => some c.cmdPer7
  | 8 => some c.cmdPer8
  | 9 => some c.cmdPer9
  | 10 => some c.cmdPer10
  | 11 => some c.cmdPer11
  | 12 => some c.cmdPer12
  | 13 => some (be16 0x23#8 c.cmdPer13Low)
  | 14 => some (be16 0x23#8 c.cmdPer14Low)
  | 15 => some 0x232A#16
  | _ => none

/-- `Cat(op, m)` (R64): a command word, or none for `InvalidMode`. -/
def catalog (c : Config) (op : BusOp) (arg : Byte) : Option Word16 :=
  match op with
  | .meas => catalogSingleShot c arg.toNat
  | .periodic => catalogPeriodic c arg.toNat
  | .fetch => some c.cmdFetch
  | .brk => some c.cmdBreak
  | .sreset => some c.cmdSreset
  | .rdstat => some c.cmdRdstat
  | .clrstat => some c.cmdClrstat
  | .heaton => some c.cmdHeaton
  | .heatoff => some c.cmdHeatoff
  | .art => some c.cmdArt

/-- `RLEN` of an operation: 6, 3 or 0 (R45, R76). -/
def readLength (op : BusOp) : BitVec 3 :=
  match op with
  | .meas => BitVec.ofNat 3 measLen
  | .fetch => BitVec.ofNat 3 measLen
  | .rdstat => BitVec.ofNat 3 statLen
  | .periodic => 0#3
  | .brk => 0#3
  | .sreset => 0#3
  | .clrstat => 0#3
  | .heaton => 0#3
  | .heatoff => 0#3
  | .art => 0#3

/-- Whether an operation has the forced delay: PERIODIC and ART (R45, R82). -/
def hasDelay (op : BusOp) : Bool :=
  match op with
  | .periodic => true
  | .art => true
  | .meas => false
  | .fetch => false
  | .brk => false
  | .sreset => false
  | .rdstat => false
  | .clrstat => false
  | .heaton => false
  | .heatoff => false

/-- The value of `SEQ` that stands for a phase (R20). -/
def Phase.code : Phase → BitVec 3
  | .idle => 0#3
  | .acq => 1#3
  | .write => 2#3
  | .read => 3#3
  | .rel => 4#3
  | .delay => 5#3
  | .resp => 6#3

/-- An outcome as a result: verbatim (R66, R151, R152). -/
def resultOf : BusOutcome → Result
  | .success => .success
  | .payloadTooLong => .payloadTooLong
  | .addressNack => .addressNack
  | .dataNack => .dataNack
  | .otherError => .otherError
  | .timeout => .timeout
  | .noDataAvailable => .noDataAvailable

/-- The code of a result (R66). -/
def Result.code : Result → BitVec 3
  | .success => 0#3
  | .payloadTooLong => 1#3
  | .addressNack => 2#3
  | .dataNack => 3#3
  | .otherError => 4#3
  | .timeout => 5#3
  | .noDataAvailable => 6#3
  | .invalidMode => 7#3

/-- The classes of R149: no error, a bus error of one of five kinds, no data, or an invalid mode (C4). -/
def Result.isBusError : Result → Bool
  | .success => false
  | .payloadTooLong => true
  | .addressNack => true
  | .dataNack => true
  | .otherError => true
  | .timeout => true
  | .noDataAvailable => false
  | .invalidMode => false

/-- The response word: `result` in bits 27:25, `payload` in bits 24:0 (R58). -/
def responseWord (r : Result) (p : Payload) : RespWord := r.code ++ p

/-- Byte `i` of a received sequence.  A byte that was not received reads as 0, which no committed reply meets: the commit
steps run only on a reply of the full length (R81, log 9). -/
def replyByte (d : List Byte) (i : Nat) : Byte := d.getD i 0

/-- The six bytes of a measurement reply as the buffer's contents (R71 a, R93). -/
def bufOfReply (d : List Byte) : Buf :=
  ⟨replyByte d 0, replyByte d 1, replyByte d 2, replyByte d 3, replyByte d 4, replyByte d 5⟩

/-- `raw_temp = {B[0], B[1]}` (R41, R132). -/
def Buf.rawTemp (b : Buf) : Word16 := be16 b.b0 b.b1

/-- `raw_rh = {B[3], B[4]}` (R41, R132). -/
def Buf.rawRh (b : Buf) : Word16 := be16 b.b3 b.b4

end Sys2Proof.Machine
end

