-- ==== Sys2Proof/Machine/Converter.lean ====
section
/-! DEFINITION. The calibration converter (R132): exact integer numerators over the fixed denominator 65535, narrowed to the
registers' widths once at the end (R16, R133, R134). -/

namespace Sys2Proof.Machine

/-- `DIVISOR` (R6): 2^16 - 1, not 2^16. -/
def divisor : Nat := 65535

/-- `T_OFFSET` (R6), degrees Celsius. -/
def tOffset : Int := -45

/-- `T_SPAN` (R6). -/
def tSpan : Nat := 175

/-- `RH_SPAN` (R6). -/
def rhSpan : Nat := 100

/-- `TEMP_NUM = 175 * raw_temp - 2949075`, where 2949075 = 45 * 65535 (R132). -/
def tempNumerator (raw : Nat) : Int := (tSpan * raw : Nat) + tOffset * divisor

/-- `RH_NUM = 100 * raw_rh` (R132). -/
def rhNumerator (raw : Nat) : Nat := rhSpan * raw

/-- `Conv(D)` (R132); bytes 2 and 5, the checksums, do not enter. -/
def conv (b : Buf) : Int × Nat := (tempNumerator b.rawTemp.toNat, rhNumerator b.rawRh.toNat)

/-- The temperature register's contents for a buffer: 25 bits two's complement (R16). -/
def convTemp (b : Buf) : BitVec 25 := BitVec.ofInt 25 (conv b).1

/-- The humidity register's contents for a buffer: 23 bits (R16). -/
def convRh (b : Buf) : BitVec 23 := BitVec.ofNat 23 (conv b).2

end Sys2Proof.Machine
end

