-- ==== Sys2Proof/Machine/Flags.lean ====
section
/-! DEFINITION. The status word's bits: the heater flag (R18, R127), the seven named bits the host decodes (R17, R129), and
the payload of RDSTAT (R59).  No bit is masked (D17); the engine acts on none of them (R129). -/

namespace Sys2Proof.Machine

/-- The status word of a 3-byte reply, most significant byte first; the checksum byte is dropped (R42, R127). -/
def statusOfReply (d : List Byte) : Word16 := be16 (replyByte d 0) (replyByte d 1)

/-- `HEATER_ON` of a newly read status word: bit 13 (R18). -/
def heaterFlag (s : Word16) : Bool := s.getLsbD 13

/-- The seven named status bits (R17, R129). -/
structure StatusFlags where
  alertPending : Bool
  heater : Bool
  rhAlert : Bool
  tAlert : Bool
  resetDetected : Bool
  cmdNotExecuted : Bool
  checksumFailed : Bool
deriving DecidableEq, Repr

/-- The named bits of a status word (R17, R129). -/
def statusFlags (s : Word16) : StatusFlags where
  alertPending := s.getLsbD 15
  heater := s.getLsbD 13
  rhAlert := s.getLsbD 11
  tAlert := s.getLsbD 10
  resetDetected := s.getLsbD 4
  cmdNotExecuted := s.getLsbD 1
  checksumFailed := s.getLsbD 0

/-- `zext_25({HEATER_ON, s})` (R59, R127). -/
def statusPayload (heater : Bool) (s : Word16) : Payload := (BitVec.ofBool heater ++ s).setWidth 25

end Sys2Proof.Machine
end

