-- ==== Sys2Proof/Machine/Ops.lean ====
section
/-! DEFINITION. The shared operations: the ports, the two endings of an operation (R88, R155), the commit steps (R93, R127),
the steps of the sequencer (R77 to R87), and acceptance (R75, R76).  There is no memory and no exception entry other than
`fail` (R148, R158); the return from one is the next acceptance (R159). -/

namespace Sys2Proof.Machine

/-! ## The ports -/

/-- The transport's answer to the next call: the script's next, or a free value (R38). -/
def Ports.answer (p : Ports) : Answer :=
  match p.answers with
  | a :: _ => a
  | [] => Config.freeAnswer p.answered

/-- The ports after one transport call. -/
def Ports.takeAnswer (p : Ports) : Ports := { p with answers := p.answers.tail, answered := p.answered + 1 }

/-- Whether the channel is free now: the next input, or a free value (R77). -/
def Ports.channelFree (p : Ports) : Bool :=
  match p.channel with
  | b :: _ => b
  | [] => Config.freeChannel p.channelAsked

/-- The ports after the channel was asked for. -/
def Ports.takeChannel (p : Ports) : Ports := { p with channel := p.channel.tail, channelAsked := p.channelAsked + 1 }

/-- Where the free timer stands at its `n`-th question: in which of the free gaps, and how many more times it answers no
there. -/
def freeTimerAt : Nat → Nat × Nat
  | 0 => (0, Config.freeTimerGap 0)
  | n + 1 =>
    match freeTimerAt n with
    | (j, 0) => (j + 1, Config.freeTimerGap (j + 1))
    | (j, r + 1) => (j, r)

/-- The free timer's answer to the `n`-th question: any sequence in which yes comes again and again, the weak fairness of
the timer (R86, D20, log 7). -/
def freeTimer (n : Nat) : Bool := (freeTimerAt n).2 == 0

/-- Whether the delay has run out now: the next input, or a free value (R86). -/
def Ports.timerDone (p : Ports) : Bool :=
  match p.timer with
  | b :: _ => b
  | [] => freeTimer p.timerAsked

/-- The ports after the timer was asked. -/
def Ports.takeTimer (p : Ports) : Ports := { p with timer := p.timer.tail, timerAsked := p.timerAsked + 1 }

/-- The ports after an event. -/
def Ports.emit (p : Ports) (e : Event) : Ports := { p with trace := p.trace ++ [e] }

/-- An event goes out (R8). -/
def State.emit (s : State) (e : Event) : State := { s with ports := s.ports.emit e }

/-- The sequencer goes to a phase: the spec's `SEQ <- phase` (R10). -/
def State.goto (s : State) (q : Phase) : State := { s with seq := q }

/-! ## The two endings of an operation -/

/-- `succeed p`: the response, and back to `IDLE` (R88). -/
def succeed (p : Payload) (s : State) : State := (s.emit (.response .success p)).goto .idle

/-- `fail r`: the response with zero payload, and back to `IDLE`; no cached register is written (R155). -/
def fail (r : Result) (s : State) : State := (s.emit (.response r 0)).goto .idle

/-! ## The commit steps -/

/-- The measurement commit: `BUF`, `TEMP_NUM` and `RH_NUM` in one step (R93). -/
def commitMeasurement (s : State) : State :=
  let b := bufOfReply s.lat.rdata
  { s with regs := { s.regs with buf := b, tempNum := convTemp b, rhNum := convRh b } }

/-- The status commit: `STATUS` and `HEATER_ON` in one step (R127). -/
def commitStatus (s : State) : State :=
  let w := statusOfReply s.lat.rdata
  { s with regs := { s.regs with status := w, heaterOn := heaterFlag w } }

/-- The commit step of an operation (R87, R90). -/
def commit (op : BusOp) (s : State) : State :=
  match op with
  | .meas => commitMeasurement s
  | .fetch => commitMeasurement s
  | .rdstat => commitStatus s
  | .periodic => s
  | .brk => s
  | .sreset => s
  | .clrstat => s
  | .heaton => s
  | .heatoff => s
  | .art => s

/-- The payload of a successful bus operation, from the registers after its commit (R59). -/
def payloadOf (op : BusOp) (r : Regs) : Payload :=
  match op with
  | .rdstat => statusPayload r.heaterOn r.status
  | .meas => 0
  | .fetch => 0
  | .periodic => 0
  | .brk => 0
  | .sreset => 0
  | .clrstat => 0
  | .heaton => 0
  | .heatoff => 0
  | .art => 0

/-! ## The steps of the sequencer -/

/-- Whether the channel question of `ACQ` is answered yes; without `SHARED_CHANNEL` there is none to ask (R77). -/
def State.channelGranted (s : State) : Bool := !s.cfg.sharedChannel || s.ports.channelFree

/-- The state after `ACQ` has asked for the channel, if it has to ask (R77). -/
def State.askChannel (s : State) : State :=
  if s.cfg.sharedChannel then { s with ports := s.ports.takeChannel } else s

/-- Step `ACQ` (R77): held while another master has the channel, else the `Acquire` event. -/
def stepAcq (s : State) : State :=
  let t := s.askChannel
  if s.channelGranted then ({ t with chanHeld := true }.emit .acquire).goto .write else t

/-- Step `WRITE` (R78): one write of the command's two bytes, its outcome latched, then `READ` or `REL`. -/
def stepWrite (s : State) : State :=
  let o := s.ports.answer.outcome
  let next := if s.lat.rlen ≠ 0 ∧ (o = .success ∨ s.cfg.readAfterFailedWrite) then Phase.read else Phase.rel
  let t := { s with lat := { s.lat with wout := o }, ports := s.ports.takeAnswer }
  (t.emit (.write (busAddress s.regs.addr) (cmdBytes s.lat.cmd) o)).goto next

/-- The outcome of a read: a `Success` of another length than asked is `NoDataAvailable` (R80, R81). -/
def classifyRead (n : Nat) (a : Answer) : BusOutcome :=
  if a.outcome = .success ∧ a.data.length ≠ n then .noDataAvailable else a.outcome

/-- Step `READ` (R80): one read of `RLEN` bytes, outcome and bytes latched.  `RDATA` holds up to six (R13, log 10). -/
def stepRead (s : State) : State :=
  let a := s.ports.answer
  let n := s.lat.rlen.toNat
  let t := { s with lat := { s.lat with rout := classifyRead n a, rdata := a.data.take bufLen }, ports := s.ports.takeAnswer }
  (t.emit (.read (busAddress s.regs.addr) n a.outcome a.data)).goto .rel

/-- Step `REL` (R82): the release, then the start of the delay or the response. -/
def stepRel (s : State) : State :=
  let t := { s with chanHeld := false }.emit .release
  if hasDelay s.lat.op ∧ (s.lat.wout = .success ∨ s.cfg.delayOnFailedWrite) then
    (t.emit (.delayStart s.cfg.tDelay)).goto .delay
  else t.goto .resp

/-- Step `DELAY` (R86): held until the timer has run out. -/
def stepDelay (s : State) : State :=
  let t := { s with ports := s.ports.takeTimer }
  if s.ports.timerDone then (t.emit .delayDone).goto .resp else t

/-- `Combined` (R83). -/
def combined (l : Latches) : BusOutcome :=
  if l.wout ≠ .success then l.wout else if l.rlen = 0 then .success else l.rout

/-- Step `RESP` (R87): fail with the combined outcome, or commit and succeed. -/
def stepResp (s : State) : State :=
  if combined s.lat ≠ .success then fail (resultOf (combined s.lat)) s
  else
    let t := commit s.lat.op s
    succeed (payloadOf s.lat.op t.regs) t

/-- One step of the sequencer (R85).  In `IDLE` it has none. -/
def seqStep (s : State) : State :=
  match s.seq with
  | .idle => s
  | .acq => stepAcq s
  | .write => stepWrite s
  | .read => stepRead s
  | .rel => stepRel s
  | .delay => stepDelay s
  | .resp => stepResp s

/-- The steps of the sequencer one after another, until the phase stays: at the end, `IDLE`, or at a hold (R91). -/
def advance : Nat → State → State
  | 0, s => s
  | n + 1, s =>
    let t := seqStep s
    if t.seq = s.seq then t else advance n t

/-- "every operation takes at most seven steps" (R85). -/
def maxSteps : Nat := 7

/-! ## Acceptance -/

/-- The latching of a bus operation (R76). -/
def latchOperation (op : BusOp) (arg : Byte) (c : Word16) (s : State) : State :=
  { s with lat := { s.lat with op := op, arg := arg, cmd := c, rlen := readLength op }, seq := .acq }

/-- What every request but CONSTRUCT needs: the engine idle (R75) and constructed (R173). -/
def whenReady (s : State) (t : Host.Outcome State Fault Refusal) : Host.Outcome State Fault Refusal :=
  if s.seq ≠ .idle then .refused .busy
  else if s.regs.constructed then t
  else .refused .notConstructed

/-- The acceptance of a bus operation (R75): `InvalidMode` at once where the catalog has no word, else latched (R76). -/
def startOperation (op : BusOp) (arg : Byte) (s : State) : Host.Outcome State Fault Refusal :=
  whenReady s <| .next <|
    match catalog s.cfg op arg with
    | none => fail .invalidMode s
    | some c => latchOperation op arg c s

/-- A bus operation from its acceptance to its response or to the first hold (R2, R75 to R88, R91, log 11). -/
def runOperation (op : BusOp) (arg : Byte) (s : State) : Host.Outcome State Fault Refusal :=
  match startOperation op arg s with
  | .next t => .next (advance maxSteps t)
  | .fault r => .fault r
  | .refused r => .refused r

end Sys2Proof.Machine
end

