-- ==== Sys2Proof/Machine/Local.lean ====
section
/-! DEFINITION. The three instructions that make no bus transfer: CONSTRUCT (R140, R141) and the accessors GETT and GETRH
(R142 to R144).  Each completes in the step that accepts it. -/

namespace Sys2Proof.Machine

/-- CONSTRUCT's effect on the state (R27, R140).  The latches keep what they hold: the rule writes none of them. -/
def construct (a : BitVec 7) (s : State) : State :=
  { s with regs := Regs.afterConstruct a, seq := .idle, chanHeld := false }

/-- CONSTRUCT (R140): accepted in `IDLE`, constructed or not (R75, R141 c); an 8-bit address is reserved (R67 b, R141 e). -/
def execConstruct (arg : Byte) (s : State) : Host.Outcome State Fault Refusal :=
  if s.seq ≠ .idle then .refused .busy
  else if arg.msb then .refused (.reservedAddress arg)
  else .next (succeed 0 (construct (addressOperand arg) s))

/-- `payload[24:0] = TEMP_NUM` (R59, R142). -/
def gettPayload (r : Regs) : Payload := r.tempNum

/-- `payload[22:0] = RH_NUM`, `payload[24:23] = 0` (R59, R143). -/
def getrhPayload (r : Regs) : Payload := r.rhNum.setWidth 25

/-- GETT (R142).  The `arg` byte selects nothing (R57 c). -/
def execGett (_arg : Byte) (s : State) : Host.Outcome State Fault Refusal :=
  whenReady s (.next (succeed (gettPayload s.regs) s))

/-- GETRH (R143).  The `arg` byte selects nothing (R57 c). -/
def execGetrh (_arg : Byte) (s : State) : Host.Outcome State Fault Refusal :=
  whenReady s (.next (succeed (getrhPayload s.regs) s))

end Sys2Proof.Machine
end

