-- ==== Sys2Proof/Machine/Measurement.lean ====
section
/-! DEFINITION. The measurement operations MEAS.1 to MEAS.6 and FETCH (R93 to R102): write two bytes, read six, commit. -/

namespace Sys2Proof.Machine

/-- MEAS.1 (R94, R95). -/
def execMeas1 (s : State) : Host.Outcome State Fault Refusal := runOperation .meas 1#8 s

/-- MEAS.2 (R94, R96). -/
def execMeas2 (s : State) : Host.Outcome State Fault Refusal := runOperation .meas 2#8 s

/-- MEAS.3 (R94, R97). -/
def execMeas3 (s : State) : Host.Outcome State Fault Refusal := runOperation .meas 3#8 s

/-- MEAS.4 (R94, R98). -/
def execMeas4 (s : State) : Host.Outcome State Fault Refusal := runOperation .meas 4#8 s

/-- MEAS.5 (R94, R99). -/
def execMeas5 (s : State) : Host.Outcome State Fault Refusal := runOperation .meas 5#8 s

/-- MEAS.6 (R94, R100). -/
def execMeas6 (s : State) : Host.Outcome State Fault Refusal := runOperation .meas 6#8 s

/-- FETCH (R101). -/
def execFetch (arg : Byte) (s : State) : Host.Outcome State Fault Refusal := runOperation .fetch arg s

end Sys2Proof.Machine
end

