-- ==== Sys2Proof/Machine/Status.lean ====
section
/-! DEFINITION. The status read RDSTAT (R127 to R130): write two bytes, read three, commit `STATUS` and `HEATER_ON`. -/

namespace Sys2Proof.Machine

/-- RDSTAT (R128). -/
def execRdstat (arg : Byte) (s : State) : Host.Outcome State Fault Refusal := runOperation .rdstat arg s

end Sys2Proof.Machine
end

