-- ==== Sys2Proof/Machine/WriteOnly.lean ====
section
/-! DEFINITION. The write-only operations (R103 to R126): write two bytes, read none, change no cached register.  PERIODIC
and ART are followed by the forced delay. -/

namespace Sys2Proof.Machine

/-- PERIODIC.1 (R104, R105). -/
def execPeriodic1 (s : State) : Host.Outcome State Fault Refusal := runOperation .periodic 1#8 s

/-- PERIODIC.2 (R104, R106). -/
def execPeriodic2 (s : State) : Host.Outcome State Fault Refusal := runOperation .periodic 2#8 s

/-- PERIODIC.3 (R104, R107). -/
def execPeriodic3 (s : State) : Host.Outcome State Fault Refusal := runOperation .periodic 3#8 s

/-- PERIODIC.4 (R104, R108). -/
def execPeriodic4 (s : State) : Host.Outcome State Fault Refusal := runOperation .periodic 4#8 s

/-- PERIODIC.5 (R104, R109). -/
def execPeriodic5 (s : State) : Host.Outcome State Fault Refusal := runOperation .periodic 5#8 s

/-- PERIODIC.6 (R104, R110). -/
def execPeriodic6 (s : State) : Host.Outcome State Fault Refusal := runOperation .periodic 6#8 s

/-- PERIODIC.7 (R104, R111). -/
def execPeriodic7 (s : State) : Host.Outcome State Fault Refusal := runOperation .periodic 7#8 s

/-- PERIODIC.8 (R104, R112). -/
def execPeriodic8 (s : State) : Host.Outcome State Fault Refusal := runOperation .periodic 8#8 s

/-- PERIODIC.9 (R104, R113). -/
def execPeriodic9 (s : State) : Host.Outcome State Fault Refusal := runOperation .periodic 9#8 s

/-- PERIODIC.10 (R104, R114). -/
def execPeriodic10 (s : State) : Host.Outcome State Fault Refusal := runOperation .periodic 10#8 s

/-- PERIODIC.11 (R104, R115). -/
def execPeriodic11 (s : State) : Host.Outcome State Fault Refusal := runOperation .periodic 11#8 s

/-- PERIODIC.12 (R104, R116). -/
def execPeriodic12 (s : State) : Host.Outcome State Fault Refusal := runOperation .periodic 12#8 s

/-- PERIODIC.13 (R104, R117). -/
def execPeriodic13 (s : State) : Host.Outcome State Fault Refusal := runOperation .periodic 13#8 s

/-- PERIODIC.14 (R104, R118). -/
def execPeriodic14 (s : State) : Host.Outcome State Fault Refusal := runOperation .periodic 14#8 s

/-- PERIODIC.15 (R104, R119). -/
def execPeriodic15 (s : State) : Host.Outcome State Fault Refusal := runOperation .periodic 15#8 s

/-- BREAK (R103, R120). -/
def execBrk (arg : Byte) (s : State) : Host.Outcome State Fault Refusal := runOperation .brk arg s

/-- SRESET (R103, R121). -/
def execSreset (arg : Byte) (s : State) : Host.Outcome State Fault Refusal := runOperation .sreset arg s

/-- CLRSTAT (R103, R122). -/
def execClrstat (arg : Byte) (s : State) : Host.Outcome State Fault Refusal := runOperation .clrstat arg s

/-- HEATON (R103, R123). -/
def execHeaton (arg : Byte) (s : State) : Host.Outcome State Fault Refusal := runOperation .heaton arg s

/-- HEATOFF (R103, R124). -/
def execHeatoff (arg : Byte) (s : State) : Host.Outcome State Fault Refusal := runOperation .heatoff arg s

/-- ART (R103, R125). -/
def execArt (arg : Byte) (s : State) : Host.Outcome State Fault Refusal := runOperation .art arg s

end Sys2Proof.Machine
end

