-- ==== Sys2Proof/Machine/Dispatch.lean ====
section
/-! DEFINITION. One arm per instruction of the opcode table (R72), each one call of its meaning. -/

namespace Sys2Proof.Machine

-- What an instruction does to a state.
def exec (i : Instr) (s : State) : Host.Outcome State Fault Refusal :=
  match i with
  | .construct arg => Sys2Proof.Machine.execConstruct arg s
  | .meas1 => Sys2Proof.Machine.execMeas1 s
  | .meas2 => Sys2Proof.Machine.execMeas2 s
  | .meas3 => Sys2Proof.Machine.execMeas3 s
  | .meas4 => Sys2Proof.Machine.execMeas4 s
  | .meas5 => Sys2Proof.Machine.execMeas5 s
  | .meas6 => Sys2Proof.Machine.execMeas6 s
  | .periodic1 => Sys2Proof.Machine.execPeriodic1 s
  | .periodic2 => Sys2Proof.Machine.execPeriodic2 s
  | .periodic3 => Sys2Proof.Machine.execPeriodic3 s
  | .periodic4 => Sys2Proof.Machine.execPeriodic4 s
  | .periodic5 => Sys2Proof.Machine.execPeriodic5 s
  | .periodic6 => Sys2Proof.Machine.execPeriodic6 s
  | .periodic7 => Sys2Proof.Machine.execPeriodic7 s
  | .periodic8 => Sys2Proof.Machine.execPeriodic8 s
  | .periodic9 => Sys2Proof.Machine.execPeriodic9 s
  | .periodic10 => Sys2Proof.Machine.execPeriodic10 s
  | .periodic11 => Sys2Proof.Machine.execPeriodic11 s
  | .periodic12 => Sys2Proof.Machine.execPeriodic12 s
  | .periodic13 => Sys2Proof.Machine.execPeriodic13 s
  | .periodic14 => Sys2Proof.Machine.execPeriodic14 s
  | .periodic15 => Sys2Proof.Machine.execPeriodic15 s
  | .fetch arg => Sys2Proof.Machine.execFetch arg s
  | .brk arg => Sys2Proof.Machine.execBrk arg s
  | .sreset arg => Sys2Proof.Machine.execSreset arg s
  | .rdstat arg => Sys2Proof.Machine.execRdstat arg s
  | .clrstat arg => Sys2Proof.Machine.execClrstat arg s
  | .heaton arg => Sys2Proof.Machine.execHeaton arg s
  | .heatoff arg => Sys2Proof.Machine.execHeatoff arg s
  | .art arg => Sys2Proof.Machine.execArt arg s
  | .gett arg => Sys2Proof.Machine.execGett arg s
  | .getrh arg => Sys2Proof.Machine.execGetrh arg s

end Sys2Proof.Machine
end

