-- ==== Sys2Proof/Machine/Accept.lean ====
section
/-! DEFINITION. How the engine takes the host's next request (R75): the request port, the decoded request in one step, and
the same in the sequencer's own steps. -/

namespace Sys2Proof.Machine

/-- The state once the host's next request has left the port. -/
def State.takeRequest (s : State) : State := { s with ports := { s.ports with requests := s.ports.requests.tail } }

/-- A request word is put to the engine (R75): an instruction runs; a mode outside its table fails with `InvalidMode`
(R150); a reserved word has no step (R67). -/
def acceptWord (w : ReqWord) (s : State) : Host.Outcome State Fault Refusal :=
  match decode w with
  | .ok i => exec i s
  | .error (.invalidMode op arg) => startOperation op arg s
  | .error (.reservedOp _) => .refused (.reservedRequest w)
  | .error (.reservedAddress _) => .refused (.reservedRequest w)

/-- In `IDLE`: the next request if the host has one, else waiting (R20, R27, R75, log 12). -/
def acceptNext (s : State) : Host.Outcome State Fault Refusal :=
  match s.ports.requests with
  | [] => .next s
  | w :: _ => acceptWord w s.takeRequest

/-- In any other phase: the operation in flight goes on, to its response or to the next hold (R75, R91). -/
def resume (s : State) : Host.Outcome State Fault Refusal := .next (advance maxSteps s)

/-- An instruction's first step alone: a bus operation is only latched (R76); the others are done in it (R75). -/
def startInstr (i : Instr) (s : State) : Host.Outcome State Fault Refusal :=
  match i.op with
  | .construct => exec i s
  | .bus b => startOperation b i.arg s
  | .gett => exec i s
  | .getrh => exec i s

/-- `acceptWord`, one sequencer step at a time. -/
def fineAcceptWord (w : ReqWord) (s : State) : Host.Outcome State Fault Refusal :=
  match decode w with
  | .ok i => startInstr i s
  | .error (.invalidMode op arg) => startOperation op arg s
  | .error (.reservedOp _) => .refused (.reservedRequest w)
  | .error (.reservedAddress _) => .refused (.reservedRequest w)

/-- The engine in steps of the sequencer: every row of R85's table is one of them. -/
def fineStep (s : State) : Host.Outcome State Fault Refusal :=
  match s.seq with
  | .idle =>
    match s.ports.requests with
    | [] => .next s
    | w :: _ => fineAcceptWord w s.takeRequest
  | .acq => .next (seqStep s)
  | .write => .next (seqStep s)
  | .read => .next (seqStep s)
  | .rel => .next (seqStep s)
  | .delay => .next (seqStep s)
  | .resp => .next (seqStep s)

/-- `n` steps of the sequencer, ending at a refusal. -/
def fineRun : Nat → State → Host.Outcome State Fault Refusal
  | 0, s => .next s
  | n + 1, s =>
    match fineStep s with
    | .next t => fineRun n t
    | .fault r => .fault r
    | .refused r => .refused r

/-- A request word at the front of the request port of an idle engine that holds no channel. -/
def placeRequest (w : ReqWord) (s : State) : State :=
  { s with seq := .idle, chanHeld := false, ports := { s.ports with requests := w :: s.ports.requests } }

end Sys2Proof.Machine
end

