-- ==== Sys2Proof/Machine/Step.lean ====
section
/-! DEFINITION. One step of the machine, and where its next instruction is put: the host's request port (R8, R75). -/

namespace Sys2Proof.Machine

/-- One step: in `IDLE` the next request is accepted and run, in any other phase the operation in flight goes on (R75). -/
def step (s : State) : Host.Outcome State Fault Refusal :=
  match s.seq with
  | .idle => acceptNext s
  | .acq => resume s
  | .write => resume s
  | .read => resume s
  | .rel => resume s
  | .delay => resume s
  | .resp => resume s

/-- `s` with the request word `w` next on the request port and the engine idle, so that the next step accepts it. -/
def State.withFetchWord (s : State) (_nbits w : Nat) : State := placeRequest (BitVec.ofNat 12 w) s

end Sys2Proof.Machine
end

