-- ==== Sys2Proof/Machine/FloatView.lean ====
section
/-! DEFINITION. The floating view of a reading (R136): a pure function of the numerators and of `FP_FORMAT`, with every
intermediate value an exact fraction, an infinity or a NaN, and every rounding to nearest, ties to even.  It is no state and
no rule of the engine reads it. -/

namespace Sys2Proof.Machine

/-- An exact rational, not reduced; the denominator is positive wherever one is built here. -/
structure Frac where
  num : Int
  den : Nat
deriving DecidableEq, Repr

/-- An integer as a fraction. -/
def Frac.ofInt (n : Int) : Frac := ⟨n, 1⟩

def Frac.add (a b : Frac) : Frac := ⟨a.num * b.den + b.num * a.den, a.den * b.den⟩

/-- Division by a fraction that is not zero. -/
def Frac.div (a b : Frac) : Frac := ⟨a.num * b.den * b.num.sign, a.den * b.num.natAbs⟩

/-- A whole multiple. -/
def Frac.scale (k : Nat) (a : Frac) : Frac := ⟨k * a.num, a.den⟩

/-- A value of a binary format.  No `-0` is told apart: the formulas of R136 do not tell it from `+0`. -/
inductive FpValue where
  | finite (x : Frac)
  | infinity (negative : Bool)
  | nan
deriving DecidableEq, Repr

/-- `+0.0`. -/
def FpValue.zero : FpValue := .finite ⟨0, 1⟩

/-- The value is the integer `n`, exactly. -/
def FpValue.IsInt (v : FpValue) (n : Int) : Prop := ∃ x : Frac, v = .finite x ∧ 0 < x.den ∧ x.num = n * x.den

/-- Width of the encoding: sign, exponent field, fraction. -/
def fpWidth (f : FpFormat) : Nat := f.precision + f.expBits

/-- Exponent bias, which is also the largest exponent. -/
def fpBias (f : FpFormat) : Int := 2 ^ (f.expBits - 1) - 1

/-- `⌊log2 (n / d)⌋` for positive `n`, `d`. -/
def floorLog2 (n d : Nat) : Int :=
  let k : Int := (n.log2 : Int) - (d.log2 : Int)
  if d * 2 ^ k.toNat ≤ n * 2 ^ (-k).toNat then k else k - 1

/-- The exponent of the last significand bit of the numbers near `n / d`. -/
def lastPlace (f : FpFormat) (n d : Nat) : Int :=
  max (floorLog2 n d - (f.precision - 1)) (2 - fpBias f - f.precision)

/-- The nearest integer to `n / d`, ties to even. -/
def roundHalfEven (n d : Nat) : Nat :=
  let q := n / d
  let r := n % d
  if d < 2 * r ∨ (2 * r = d ∧ q % 2 = 1) then q + 1 else q

/-- The significand of the nearest number of the format to `n / d`, in units of `lastPlace`. -/
def significand (f : FpFormat) (n d : Nat) : Nat :=
  let q := lastPlace f n d
  roundHalfEven (n * 2 ^ (-q).toNat) (d * 2 ^ q.toNat)

/-- `rn`: the value of the format nearest to a fraction, ties to even (R136), an infinity where the rounded number is beyond
the largest exponent (IEEE 754, log 19). -/
def rn (f : FpFormat) (x : Frac) : FpValue :=
  let q := lastPlace f x.num.natAbs x.den
  let m := significand f x.num.natAbs x.den
  if x.num = 0 ∨ m = 0 then .zero
  else if fpBias f < (m.log2 : Int) + q then .infinity (x.num < 0)
  else .finite ⟨x.num.sign * (m * 2 ^ q.toNat : Nat), 2 ^ (-q).toNat⟩

/-- The format's addition: `rn` of the exact sum of two numbers, and IEEE 754's table for the rest. -/
def FpValue.add (f : FpFormat) : FpValue → FpValue → FpValue
  | .finite a, .finite b => rn f (a.add b)
  | .finite _, .infinity t => .infinity t
  | .finite _, .nan => .nan
  | .infinity s, .finite _ => .infinity s
  | .infinity s, .infinity t => if s = t then .infinity s else .nan
  | .infinity _, .nan => .nan
  | .nan, _ => .nan

/-- The format's division: `rn` of the exact quotient of two numbers, and IEEE 754's table for the rest. -/
def FpValue.div (f : FpFormat) : FpValue → FpValue → FpValue
  | .finite a, .finite b =>
    if b.num ≠ 0 then rn f (a.div b) else if a.num ≠ 0 then .infinity (a.num < 0) else .nan
  | .finite _, .infinity _ => .zero
  | .finite _, .nan => .nan
  | .infinity s, .finite b => .infinity (s != (b.num < 0))
  | .infinity _, .infinity _ => .nan
  | .infinity _, .nan => .nan
  | .nan, _ => .nan

/-- The sign bit of the encoding. -/
def signBit (f : FpFormat) (negative : Bool) : Nat := if negative then 2 ^ (fpWidth f - 1) else 0

/-- The exponent field all ones, as infinities and NaNs have it. -/
def topExponent (f : FpFormat) : Nat := (2 ^ f.expBits - 1) * 2 ^ (f.precision - 1)

/-- The encoding of a value of the format: sign, biased exponent, fraction.  Zero is `+0.0`.  A NaN is a quiet one, its sign
and payload free (log 23). -/
def fpEncode (f : FpFormat) : FpValue → BitVec (fpWidth f)
  | .finite x =>
    if x.num = 0 then 0
    else
      let p := f.precision
      let m := significand f x.num.natAbs x.den
      let e := lastPlace f x.num.natAbs x.den + (p - 1) + fpBias f
      let sign := signBit f (x.num < 0)
      if m < 2 ^ (p - 1) then BitVec.ofNat _ (sign + m)
      else BitVec.ofNat _ (sign + e.toNat * 2 ^ (p - 1) + (m - 2 ^ (p - 1)))
  | .infinity negative => BitVec.ofNat _ (signBit f negative + topExponent f)
  | .nan => BitVec.ofNat _ Config.freeNaN ||| BitVec.ofNat _ (topExponent f + 2 ^ (f.precision - 2))

/-- `raw` of a temperature numerator: `(TEMP_NUM + 2949075) / 175`, the exact quotient (R10, R135 c, R136). -/
def rawOfTempNum (tn : Int) : Frac := ⟨tn - tOffset * divisor, tSpan⟩

/-- `raw` of a humidity numerator: `RH_NUM / 100`, the exact quotient (R10, R135 c, R136). -/
def rawOfRhNum (hn : Nat) : Frac := ⟨hn, rhSpan⟩

/-- The value of `FloatT(tn)`: `rn(rn(-45) + rn(rn(175 * raw) / rn(65535)))`, and `+0.0` for the reset value (R136). -/
def floatTValue (f : FpFormat) (tn : Int) : FpValue :=
  if tn = 0 then .zero
  else
    .add f (rn f (.ofInt tOffset)) (.div f (rn f ((rawOfTempNum tn).scale tSpan)) (rn f (.ofInt divisor)))

/-- The value of `FloatRH(hn)`: `rn(rn(100 * raw) / rn(65535))` (R136). -/
def floatRHValue (f : FpFormat) (hn : Nat) : FpValue :=
  .div f (rn f ((rawOfRhNum hn).scale rhSpan)) (rn f (.ofInt divisor))

/-- `FloatT` as a bit pattern (R136). -/
def floatT (f : FpFormat) (tn : Int) : BitVec (fpWidth f) := fpEncode f (floatTValue f tn)

/-- `FloatRH` as a bit pattern (R136). -/
def floatRH (f : FpFormat) (hn : Nat) : BitVec (fpWidth f) := fpEncode f (floatRHValue f hn)

/-- The exact temperature in degrees Celsius, `TEMP_NUM / 65535` (R16, R132). -/
def temperatureC (r : Regs) : Frac := ⟨r.tempNum.toInt, divisor⟩

/-- The exact relative humidity in percent, `RH_NUM / 65535` (R16, R132). -/
def humidityPct (r : Regs) : Frac := ⟨r.rhNum.toNat, divisor⟩

/-- The reading as the host sees it in the machine's own floating format (R136, R142). -/
def State.floatTemperature (s : State) : BitVec (fpWidth s.cfg.fpFormat) :=
  floatT s.cfg.fpFormat s.regs.tempNum.toInt

/-- The humidity in the machine's own floating format (R136, R143). -/
def State.floatHumidity (s : State) : BitVec (fpWidth s.cfg.fpFormat) :=
  floatRH s.cfg.fpFormat s.regs.rhNum.toNat

end Sys2Proof.Machine
end

