-- ==== Sys2Proof/Safety.lean ====
section
/-! DEFINITION. What a good state is: the spec's invariants (R21, R23, R24, R76 to R86), and the words the statements use
for ports, transport events and waiting. -/

namespace Sys2Proof.Machine

/-- The phases in which the engine holds the bus channel (R21). -/
def Phase.holdsChannel : Phase → Bool
  | .idle => false
  | .acq => false
  | .write => true
  | .read => true
  | .rel => true
  | .delay => false
  | .resp => false

/-- `CHAN_HELD` is 1 exactly in `WRITE`, `READ` and `REL` (R21). -/
def ChannelBracket (s : State) : Prop := s.chanHeld = s.seq.holdsChannel

/-- Buffer and reading are all zero, or the reading is the buffer's conversion, exactly (R23). -/
def ReadingConsistent (r : Regs) : Prop :=
  (r.buf = Buf.zero ∧ r.tempNum = 0 ∧ r.rhNum = 0) ∨
  (r.tempNum.toInt = 175 * (r.buf.rawTemp.toNat : Int) - 2949075 ∧ r.rhNum.toNat = 100 * r.buf.rawRh.toNat)

/-- `HEATER_ON = STATUS[13]` (R24). -/
def HeaterMirrors (r : Regs) : Prop := r.heaterOn = r.status.getLsbD 13

/-- An operation in flight was accepted from a constructed engine and latched with its catalog word and its read length
(R75, R76). -/
def LatchedFromCatalog (s : State) : Prop :=
  s.seq ≠ .idle →
    s.regs.constructed = true ∧ catalog s.cfg s.lat.op s.lat.arg = some s.lat.cmd ∧ s.lat.rlen = readLength s.lat.op

/-- `READ` is entered only by an operation that reads (R78), `DELAY` only by PERIODIC and ART (R82). -/
def PhaseFits (s : State) : Prop :=
  (s.seq = .read → s.lat.rlen ≠ 0) ∧ (s.seq = .delay → hasDelay s.lat.op = true)

/-- After a read, a success means that exactly `RLEN` bytes are latched (R80, R81). -/
def ReplyComplete (s : State) : Prop :=
  s.seq = .rel ∨ s.seq = .resp →
    s.lat.wout = .success → s.lat.rlen ≠ 0 → s.lat.rout = .success → s.lat.rdata.length = s.lat.rlen.toNat

/-- `RDATA` holds at most six bytes (R13, R22). -/
def ReplyFits (s : State) : Prop := s.lat.rdata.length ≤ 6

/-- The invariant of the engine. -/
structure EngineInv (s : State) : Prop where
  channel : ChannelBracket s
  reading : ReadingConsistent s.regs
  heater  : HeaterMirrors s.regs
  latched : LatchedFromCatalog s
  fits    : PhaseFits s
  reply   : ReplyComplete s
  room    : ReplyFits s

/-! ## Events -/

/-- An event is a response (R8). -/
def Event.isResponse : Event → Bool
  | .response _ _ => true
  | .acquire => false
  | .write _ _ _ => false
  | .read _ _ _ _ => false
  | .release => false
  | .delayStart _ => false
  | .delayDone => false

/-- An event is a `Write` on the transport port (R8). -/
def Event.isWrite : Event → Bool
  | .write _ _ _ => true
  | .acquire => false
  | .read _ _ _ _ => false
  | .release => false
  | .delayStart _ => false
  | .delayDone => false
  | .response _ _ => false

/-- An event is a `Read` on the transport port (R8). -/
def Event.isRead : Event → Bool
  | .read _ _ _ _ => true
  | .acquire => false
  | .write _ _ _ => false
  | .release => false
  | .delayStart _ => false
  | .delayDone => false
  | .response _ _ => false

/-- An event is one of the transport port's four (R8). -/
def Event.isTransport : Event → Bool
  | .acquire => true
  | .write _ _ _ => true
  | .read _ _ _ _ => true
  | .release => true
  | .delayStart _ => false
  | .delayDone => false
  | .response _ _ => false

/-- The events of one transaction in R84's order, with whatever of the delay and the response has followed: `Acquire` first,
one `Write`, at most one `Read`, `Release` last. -/
def IsTransaction (es : List Event) : Prop :=
  ∃ (w : Event) (rd rest : List Event), es = .acquire :: w :: rd ++ .release :: rest ∧
    w.isWrite = true ∧ rd.length ≤ 1 ∧ (∀ e ∈ rd, e.isRead = true) ∧ ∀ e ∈ rest, e.isTransport = false

/-- `es` ends with a response and holds no other (R91, R148). -/
def EndsWithOneResponse (es : List Event) : Prop :=
  ∃ (before : List Event) (r : Result) (p : Payload), es = before ++ [.response r p] ∧
    ∀ e ∈ before, e.isResponse = false

/-! ## Runs of steps, and the fairness of the two holds -/

/-- `n` steps of the machine, ending at a refusal. -/
def stepRun : Nat → State → Host.Outcome State Fault Refusal
  | 0, s => .next s
  | n + 1, s =>
    match step s with
    | .next t => stepRun n t
    | .fault r => .fault r
    | .refused r => .refused r

/-- What the timer will answer to the `k`-th question from now (R86). -/
def Ports.timerAnswer (p : Ports) (k : Nat) : Bool := p.timer.getD k (freeTimer (p.timerAsked + k))

/-- What the answer to the `k`-th question for the channel from now will be (R77). -/
def Ports.channelAnswer (p : Ports) (k : Nat) : Bool := p.channel.getD k (Config.freeChannel (p.channelAsked + k))

/-- The fairness of the other masters (R52, R91, D13): the channel comes free.  It is a hypothesis, not a property of the
model: the other masters are outside it (log 6).  The timer's fairness needs no hypothesis (log 7). -/
def Ports.ChannelComesFree (p : Ports) : Prop := ∃ k, p.channelAnswer k = true

/-- The channel hold is lifted some time, where it can arise at all. -/
def ChannelFair (s : State) : Prop := s.cfg.sharedChannel = true → s.ports.ChannelComesFree

/-! ## The transport's answers as an operation meets them -/

/-- The outcome the transport will give to the operation's write (R78). -/
def State.writeOutcome (s : State) : BusOutcome := s.ports.answer.outcome

/-- The answer the transport will give to the operation's read, the call after its write (R80). -/
def State.readAnswer (s : State) : Answer := s.ports.takeAnswer.answer

/-- The outcome an operation reports for its read (R80, R81). -/
def State.readOutcome (s : State) (n : Nat) : BusOutcome := classifyRead n s.readAnswer

/-- The engine can accept a request and, where it asks for the channel, gets it at once (R75, R77, R173). -/
structure ReadyFor (s : State) : Prop where
  idle : s.seq = .idle
  constructed : s.regs.constructed = true
  granted : s.channelGranted = true

/-- The channel input after one acquisition: one answer used if the channel is shared (R77). -/
def Ports.afterAcquire (p : Ports) (shared : Bool) : Ports := if shared then p.takeChannel else p

/-- The answers input after `n` transport calls (R38). -/
def Ports.afterCalls (p : Ports) (n : Nat) : Ports :=
  { p with answers := p.answers.drop n, answered := p.answered + n }

/-- The ports with further events at the end of the trace. -/
def Ports.send (p : Ports) (es : List Event) : Ports := { p with trace := p.trace ++ es }

end Sys2Proof.Machine
end

