-- ==== Sys2Proof/Certificates/Slice0/Obligations.lean ====
section
/-! DEFINITION. The statements for the provers.  Each docstring names the rules of spec/ it formalises. -/

open Sys2Proof Sys2Proof.Machine

/-! ## Encodings -/

/-- R55 to R57, R72: every well-formed instruction is read back from its own request word. -/
def Obligations.DecodeInvertsEncode : Prop :=
  ∀ i : Instr, WellFormed i → decode (encode i) = .ok i

/-- R55 to R57, R67: a word that decodes is the word of the instruction it decodes to, which is well formed; so no two words
give one instruction. -/
def Obligations.EncodeInvertsDecode : Prop :=
  ∀ (w : ReqWord) (i : Instr), decode w = .ok i → WellFormed i ∧ encode i = w

/-- R55, R56, R72, written out, one word of every row of the opcode table: `op` above, `arg` below. -/
def Obligations.DecodesSpecWords : Prop :=
  decode 0b000001000100#12 = .ok (.construct 0x44) ∧
  [0b000100000001#12, 0b000100000010#12, 0b000100000011#12, 0b000100000100#12, 0b000100000101#12,
    0b000100000110#12].map decode = [.meas1, .meas2, .meas3, .meas4, .meas5, .meas6].map .ok ∧
  [0b001000000001#12, 0b001000000010#12, 0b001000000011#12, 0b001000000100#12, 0b001000000101#12, 0b001000000110#12,
    0b001000000111#12, 0b001000001000#12, 0b001000001001#12, 0b001000001010#12, 0b001000001011#12, 0b001000001100#12,
    0b001000001101#12, 0b001000001110#12, 0b001000001111#12].map decode =
    [.periodic1, .periodic2, .periodic3, .periodic4, .periodic5, .periodic6, .periodic7, .periodic8, .periodic9,
      .periodic10, .periodic11, .periodic12, .periodic13, .periodic14, .periodic15].map .ok ∧
  decode 0b001110100101#12 = .ok (.fetch 0xA5) ∧ decode 0b010011111111#12 = .ok (.brk 0xFF) ∧
  decode 0b010100000000#12 = .ok (.sreset 0) ∧ decode 0b011000000000#12 = .ok (.rdstat 0) ∧
  decode 0b011100010000#12 = .ok (.clrstat 0x10) ∧ decode 0b100000000000#12 = .ok (.heaton 0) ∧
  decode 0b100100000000#12 = .ok (.heatoff 0) ∧ decode 0b101000000011#12 = .ok (.art 3) ∧
  decode 0b101100000001#12 = .ok (.gett 1) ∧ decode 0b110000000000#12 = .ok (.getrh 0)

/-- R67 (a), (b): the words with `op` 13 to 15, and CONSTRUCT with `arg[7] = 1`, are refused, whatever else the state. -/
def Obligations.ReservedWordsRefused : Prop :=
  ∀ (s : State) (w : ReqWord) (rest : List ReqWord), s.seq = .idle → s.ports.requests = w :: rest →
    (13 ≤ w.toNat / 256 ∨ (w.toNat / 256 = 0 ∧ 128 ≤ w.toNat % 256)) → step s = .refused (.reservedRequest w)

/-- R150: MEAS outside 1..6 and PERIODIC outside 1..15 fail with `InvalidMode` in the step that takes the request: the one
event is the response, with zero payload, and no state changes; and no instruction raises `InvalidMode`. -/
def Obligations.InvalidModeFailsAtOnce : Prop :=
  (∀ (s : State) (w : ReqWord) (rest : List ReqWord), s.seq = .idle → s.regs.constructed = true →
    s.ports.requests = w :: rest →
    ((w.toNat / 256 = 1 ∧ ¬ (1 ≤ w.toNat % 256 ∧ w.toNat % 256 ≤ 6)) ∨
      (w.toNat / 256 = 2 ∧ ¬ (1 ≤ w.toNat % 256 ∧ w.toNat % 256 ≤ 15))) →
    step s = .next { s with
      ports := { s.ports with requests := rest, trace := s.ports.trace ++ [.response .invalidMode 0] } }) ∧
  (∀ (i : Instr) (s t : State) (p : Payload), exec i s = .next t →
    .response .invalidMode p ∈ t.ports.trace → .response .invalidMode p ∈ s.ports.trace)

/-- R61 to R64: the whole catalog for every choice of the parameters, with the words and high bytes the source prints; and
its words under the spec's default parameters (25 of those are the spec's general knowledge, log 3). -/
def Obligations.CatalogFollowsTables : Prop :=
  (∀ c : Config,
    [1, 2, 3, 4, 5, 6].map (catalog c .meas) =
      [0x2C06, c.cmdSS2, c.cmdSS3, c.cmdSS4, c.cmdSS5, 0x2416].map some ∧
    [1, 2, 3, 4, 5, 6, 7, 8, 9, 10, 11, 12, 13, 14, 15].map (catalog c .periodic) =
      [0x2032, c.cmdPer2, c.cmdPer3, c.cmdPer4, c.cmdPer5, c.cmdPer6, c.cmdPer7, c.cmdPer8, c.cmdPer9, c.cmdPer10,
        c.cmdPer11, c.cmdPer12, 0x23#8 ++ c.cmdPer13Low, 0x23#8 ++ c.cmdPer14Low, 0x232A].map some ∧
    ∀ arg : Byte,
      [BusOp.fetch, .brk, .sreset, .art, .heaton, .heatoff, .rdstat, .clrstat].map (catalog c · arg) =
        [c.cmdFetch, c.cmdBreak, c.cmdSreset, c.cmdArt, c.cmdHeaton, c.cmdHeatoff, c.cmdRdstat, c.cmdClrstat].map
          some) ∧
  [1, 2, 3, 4, 5, 6].map (catalog Config.default .meas) =
    [0x2C06, 0x2C0D, 0x2C10, 0x2400, 0x240B, 0x2416].map some ∧
  [1, 2, 3, 4, 5, 6, 7, 8, 9, 10, 11, 12, 13, 14, 15].map (catalog Config.default .periodic) =
    [0x2032, 0x2024, 0x202F, 0x2130, 0x2126, 0x212D, 0x2236, 0x2220, 0x222B, 0x2334, 0x2322, 0x2329, 0x2337, 0x2321,
      0x232A].map some ∧
  [BusOp.fetch, .brk, .sreset, .art, .heaton, .heatoff, .rdstat, .clrstat].map (catalog Config.default · 0) =
    [0xE000, 0x3093, 0x30A2, 0x2B32, 0x306D, 0x3066, 0xF32D, 0x3041].map some

/-- R64: `Cat` has a word exactly for modes 1..6 of MEAS, modes 1..15 of PERIODIC, and every operand of the eight others,
where the operand selects nothing. -/
def Obligations.CatalogDomain : Prop :=
  ∀ (c : Config) (arg : Byte),
    (catalog c .meas arg ≠ none ↔ 1 ≤ arg.toNat ∧ arg.toNat ≤ 6) ∧
    (catalog c .periodic arg ≠ none ↔ 1 ≤ arg.toNat ∧ arg.toNat ≤ 15) ∧
    (∀ op, op ≠ .meas → op ≠ .periodic → catalog c op arg ≠ none ∧ catalog c op arg = catalog c op 0)

/-! ## Acceptance -/

/-- R75: in `IDLE` a step takes the host's next request off the port and runs the instruction it decodes to. -/
def Obligations.StepRunsDecodedRequest : Prop :=
  ∀ (s : State) (w : ReqWord) (rest : List ReqWord) (i : Instr), s.seq = .idle → s.ports.requests = w :: rest →
    decode w = .ok i → step s = exec i { s with ports := { s.ports with requests := rest } }

/-- R20, R27: in `IDLE` with no request the engine waits.  That waiting is a step that changes nothing is the model's own
reading (log 12). -/
def Obligations.IdleEngineWaits : Prop :=
  ∀ s : State, s.seq = .idle → s.ports.requests = [] → step s = .next s

/-- R173: while `CONSTRUCTED = 0` every request other than CONSTRUCT is refused, GETT and GETRH and a mode outside its table
included; CONSTRUCT is accepted. -/
def Obligations.UnconstructedEngineRefuses : Prop :=
  ∀ s : State, s.seq = .idle → s.regs.constructed = false →
    (∀ i : Instr, i.op ≠ .construct → exec i s = .refused .notConstructed) ∧
    (∀ (w : ReqWord) (rest : List ReqWord), s.ports.requests = w :: rest → 256 ≤ w.toNat → ∃ r, step s = .refused r) ∧
    (∀ (w : ReqWord) (rest : List ReqWord), s.ports.requests = w :: rest → w.toNat < 128 → ∃ t, step s = .next t)

/-- R75, U7: while `SEQ != IDLE` no request is accepted and none is lost; the operation in flight goes on. -/
def Obligations.BusyEngineTakesNoRequest : Prop :=
  ∀ s : State, s.seq ≠ .idle →
    (∀ i : Instr, exec i s = .refused .busy) ∧ (∃ t, step s = .next t ∧ t.ports.requests = s.ports.requests)

/-! ## The steps of the sequencer -/

/-- R76: a bus operation with a valid mode is latched, with its catalog word and its read length, and goes to `ACQ`, with no
event; and `CMD` is written nowhere else. -/
def Obligations.LatchingStep : Prop :=
  (∀ (s : State) (w : ReqWord) (rest : List ReqWord) (i : Instr) (op : BusOp), s.seq = .idle →
    s.regs.constructed = true → s.ports.requests = w :: rest → decode w = .ok i → i.op = .bus op →
    ∃ cmd, catalog s.cfg op (argField w) = some cmd ∧
      fineStep s = .next { s with
        lat := { s.lat with
          op := op, arg := argField w, cmd := cmd,
          rlen := if op = .meas ∨ op = .fetch then 6 else if op = .rdstat then 3 else 0 }
        seq := .acq
        ports := { s.ports with requests := rest } }) ∧
  (∀ s t : State, fineStep s = .next t → t.lat.cmd ≠ s.lat.cmd → s.seq = .idle ∧ t.seq = .acq)

/-- R77: `ACQ` is enabled when the channel is free or not shared; then the `Acquire` event, `CHAN_HELD <- 1`, `SEQ <- WRITE`.
Under `SHARED_CHANNEL` it is held, not failed, while the channel is not free. -/
def Obligations.AcquireStep : Prop :=
  ∀ s : State, s.seq = .acq →
    (s.cfg.sharedChannel = false →
      fineStep s = .next { s with
        chanHeld := true, seq := .write, ports := { s.ports with trace := s.ports.trace ++ [.acquire] } }) ∧
    (s.cfg.sharedChannel = true → s.ports.channelFree = true →
      fineStep s = .next { s with
        chanHeld := true, seq := .write,
        ports := { s.ports.takeChannel with trace := s.ports.trace ++ [.acquire] } }) ∧
    (s.cfg.sharedChannel = true → s.ports.channelFree = false →
      fineStep s = .next { s with ports := s.ports.takeChannel })

/-- R78: one `Write` of the command's two bytes to `zext_8(ADDR)`, its outcome latched in `WOUT`; then `READ` if `RLEN > 0`
and (the outcome is `Success` or `READ_AFTER_FAILED_WRITE`), else `REL`. -/
def Obligations.WriteStep : Prop :=
  ∀ s : State, s.seq = .write →
    fineStep s = .next { s with
      lat := { s.lat with wout := s.ports.answer.outcome }
      seq := if 0 < s.lat.rlen.toNat ∧ (s.ports.answer.outcome = .success ∨ s.cfg.readAfterFailedWrite = true)
        then .read else .rel
      ports := { s.ports.takeAnswer with
        trace := s.ports.trace ++
          [.write (s.regs.addr.setWidth 8) [s.lat.cmd.extractLsb' 8 8, s.lat.cmd.extractLsb' 0 8]
            s.ports.answer.outcome] } }

/-- R80, R81: one `Read` of `RLEN` bytes from `zext_8(ADDR)`; a `Success` of another length is latched as `NoDataAvailable`,
every other outcome verbatim; then `REL`.  (Of more than six bytes `RDATA` keeps six, log 10.) -/
def Obligations.ReadStep : Prop :=
  ∀ s : State, s.seq = .read →
    fineStep s = .next { s with
      lat := { s.lat with
        rout := if s.ports.answer.outcome = .success ∧ s.ports.answer.data.length ≠ s.lat.rlen.toNat
          then .noDataAvailable else s.ports.answer.outcome
        rdata := s.ports.answer.data.take 6 }
      seq := .rel
      ports := { s.ports.takeAnswer with
        trace := s.ports.trace ++
          [.read (s.regs.addr.setWidth 8) s.lat.rlen.toNat s.ports.answer.outcome s.ports.answer.data] } }

/-- R82: the `Release` event, `CHAN_HELD <- 0`; then `DELAY` for PERIODIC and ART where the write succeeded or
`DELAY_ON_FAILED_WRITE`, else `RESP`.  The `DelayStart` event is R86's, on entry to `DELAY`. -/
def Obligations.ReleaseStep : Prop :=
  ∀ s : State, s.seq = .rel →
    ((s.lat.op = .periodic ∨ s.lat.op = .art) ∧ (s.lat.wout = .success ∨ s.cfg.delayOnFailedWrite = true) →
      fineStep s = .next { s with
        chanHeld := false, seq := .delay,
        ports := { s.ports with trace := s.ports.trace ++ [.release, .delayStart s.cfg.tDelay] } }) ∧
    (¬ ((s.lat.op = .periodic ∨ s.lat.op = .art) ∧ (s.lat.wout = .success ∨ s.cfg.delayOnFailedWrite = true)) →
      fineStep s = .next { s with
        chanHeld := false, seq := .resp, ports := { s.ports with trace := s.ports.trace ++ [.release] } })

/-- R86: the length the delay is started with is at least 10 ms; `DelayDone` leads to `RESP`; until then the engine stays in
`DELAY` with no event.  The model has no clock (log 17): the length is a number of the `DelayStart` event (log 4), and when
the timer has run out is an input, which nothing ties to that number (log 7). -/
def Obligations.DelayPhase : Prop :=
  (∀ c : Config, 10 ≤ c.tDelay) ∧
  ∀ s : State, s.seq = .delay →
    (s.ports.timerDone = true →
      fineStep s = .next { s with
        seq := .resp, ports := { s.ports.takeTimer with trace := s.ports.trace ++ [.delayDone] } }) ∧
    (s.ports.timerDone = false → fineStep s = .next { s with ports := s.ports.takeTimer })

/-- R83: the write's outcome unless it is `Success`, then `Success` where nothing is read, then the read's. -/
def Obligations.CombinedOutcome : Prop :=
  ∀ l : Latches,
    (l.wout ≠ .success → combined l = l.wout) ∧
    (l.wout = .success → l.rlen = 0 → combined l = .success) ∧
    (l.wout = .success → 0 < l.rlen.toNat → combined l = l.rout)

/-- R87: `RESP` fails with the combined outcome where it is no `Success`, writing no register; else it runs the commit step
of `OP` and responds `Success`, with R59's payload; `SEQ <- IDLE`. -/
def Obligations.ResponseStep : Prop :=
  ∀ s : State, s.seq = .resp →
    (combined s.lat ≠ .success →
      fineStep s = .next { s with
        seq := .idle,
        ports := { s.ports with trace := s.ports.trace ++ [.response (resultOf (combined s.lat)) 0] } }) ∧
    (combined s.lat = .success → s.lat.op = .meas ∨ s.lat.op = .fetch →
      fineStep s = .next { commitMeasurement s with
        seq := .idle, ports := { s.ports with trace := s.ports.trace ++ [.response .success 0] } }) ∧
    (combined s.lat = .success → s.lat.op = .rdstat →
      fineStep s = .next { commitStatus s with
        seq := .idle,
        ports := { s.ports with
          trace := s.ports.trace ++
            [.response .success (statusPayload (commitStatus s).regs.heaterOn (commitStatus s).regs.status)] } }) ∧
    (combined s.lat = .success → s.lat.op ≠ .meas → s.lat.op ≠ .fetch → s.lat.op ≠ .rdstat →
      fineStep s = .next { s with
        seq := .idle, ports := { s.ports with trace := s.ports.trace ++ [.response .success 0] } })

/-- R85: the complete list of transitions of `SEQ`, each with its condition, and the two holds of R91.  That `IDLE` with no
request is a step which stays there is log 12; that 10 ms have passed is an input (log 7). -/
def Obligations.SequencerFollowsTable : Prop :=
  ∀ s t : State, fineStep s = .next t →
    (s.seq = .idle →
      (t.seq = .acq ↔ ∃ (w : ReqWord) (rest : List ReqWord), s.ports.requests = w :: rest ∧
        ((w.toNat / 256 = 1 ∧ 1 ≤ w.toNat % 256 ∧ w.toNat % 256 ≤ 6) ∨
          (w.toNat / 256 = 2 ∧ 1 ≤ w.toNat % 256 ∧ w.toNat % 256 ≤ 15) ∨
          (3 ≤ w.toNat / 256 ∧ w.toNat / 256 ≤ 10))) ∧
      (t.seq ≠ .acq → t.seq = .idle)) ∧
    (s.seq = .acq →
      (t.seq = .write ↔ s.cfg.sharedChannel = false ∨ s.ports.channelFree = true) ∧
      (t.seq ≠ .write → t.seq = .acq)) ∧
    (s.seq = .write →
      (t.seq = .read ↔ 0 < s.lat.rlen.toNat ∧ (t.lat.wout = .success ∨ s.cfg.readAfterFailedWrite = true)) ∧
      (t.seq ≠ .read → t.seq = .rel)) ∧
    (s.seq = .read → t.seq = .rel) ∧
    (s.seq = .rel →
      (t.seq = .delay ↔ (s.lat.op = .periodic ∨ s.lat.op = .art) ∧
        (s.lat.wout = .success ∨ s.cfg.delayOnFailedWrite = true)) ∧
      (t.seq ≠ .delay → t.seq = .resp)) ∧
    (s.seq = .delay → (t.seq = .resp ↔ s.ports.timerDone = true) ∧ (t.seq ≠ .resp → t.seq = .delay)) ∧
    (s.seq = .resp → t.seq = .idle)

/-- R85, R91: a step is at most seven steps of the sequencer, taken one after another, whatever the state.  That one step
runs so far is the model's choice (log 11). -/
def Obligations.StepIsRunOfSequencerSteps : Prop :=
  ∀ s : State, ∃ k ≤ 7, fineRun k s = step s

/-- R75 to R77: a bus operation that is only latched goes on, at the next step, exactly as if it had been run at once. -/
def Obligations.LatchedOperationGoesOn : Prop :=
  ∀ s m : State, s.seq = .idle → fineStep s = .next m → m.seq = .acq → step s = step m

/-- R91, R148, R157: a step that has a request to take or an operation in flight ends with exactly one response, as its last
event, and the engine in `IDLE`; or it is held in `ACQ`, under `SHARED_CHANNEL`, with no event; or it is held in `DELAY`,
with no response. -/
def Obligations.StepRespondsOrIsHeld : Prop :=
  ∀ s t : State, step s = .next t → (s.seq ≠ .idle ∨ s.ports.requests ≠ []) →
    (t.seq = .idle ∧ ∃ es r p, t.ports.trace = s.ports.trace ++ es ++ [.response r p] ∧
      ∀ e ∈ es, e.isResponse = false) ∨
    (t.seq = .acq ∧ s.cfg.sharedChannel = true ∧ t.ports.trace = s.ports.trace) ∨
    (t.seq = .delay ∧ ∃ es, t.ports.trace = s.ports.trace ++ es ∧ ∀ e ∈ es, e.isResponse = false)

/-! ## What the instructions do -/

/-- R140: CONSTRUCT stores the low seven bits of its operand and zeroes every cached register, with no transport event; it is
accepted whether or not the engine was constructed before.  That the latches stay is the model's choice (log 20): R27 calls
them unspecified. -/
def Obligations.ConstructStoresAddress : Prop :=
  ∀ (s : State) (arg : Byte), s.seq = .idle → arg.toNat < 128 →
    exec (.construct arg) s = .next {
      cfg := s.cfg
      regs := ⟨arg.setWidth 7, ⟨0, 0, 0, 0, 0, 0⟩, 0, 0, 0, false, true⟩
      seq := .idle
      chanHeld := false
      lat := s.lat
      ports := { s.ports with trace := s.ports.trace ++ [.response .success 0] } }

/-- R67 (b), R141 (e): an operand with bit 7 set is no address. -/
def Obligations.ConstructRefusesEightBitAddress : Prop :=
  ∀ (s : State) (arg : Byte), s.seq = .idle → 128 ≤ arg.toNat → exec (.construct arg) s = .refused (.reservedAddress arg)

/-- R142: GETT answers `TEMP_NUM` as a 25-bit two's complement number and writes no state. -/
def Obligations.GettAnswersTemperature : Prop :=
  ∀ (s : State) (arg : Byte), s.seq = .idle → s.regs.constructed = true →
    exec (.gett arg) s = .next { s with
      ports := { s.ports with trace := s.ports.trace ++ [.response .success (BitVec.ofInt 25 s.regs.tempNum.toInt)] } }

/-- R143: GETRH answers `RH_NUM` in bits 22:0, zero above, and writes no state. -/
def Obligations.GetrhAnswersHumidity : Prop :=
  ∀ (s : State) (arg : Byte), s.seq = .idle → s.regs.constructed = true →
    exec (.getrh arg) s = .next { s with
      ports := { s.ports with trace := s.ports.trace ++ [.response .success (0#2 ++ s.regs.rhNum)] } }

/-- R93, with R94 and R101: MEAS.1 to MEAS.6 and FETCH, where the write succeeds and six bytes come back: `BUF`, `TEMP_NUM`
and `RH_NUM` take the reply, by the formulas of R132, nothing else of the registers changes, and the bus sees one
transaction (R84). -/
def Obligations.MeasurementCommitsReply : Prop :=
  ∀ (i : Instr) (op : BusOp) (s : State) (d0 d1 d2 d3 d4 d5 : Byte),
    i.op = .bus op → op = .meas ∨ op = .fetch → ReadyFor s → s.writeOutcome = .success →
    s.readAnswer = ⟨.success, [d0, d1, d2, d3, d4, d5]⟩ →
    ∃ cmd, catalog s.cfg op i.arg = some cmd ∧
      exec i s = .next {
        cfg := s.cfg
        regs := { s.regs with
          buf := ⟨d0, d1, d2, d3, d4, d5⟩
          tempNum := BitVec.ofInt 25 (175 * ((d0.toNat * 256 + d1.toNat : Nat) : Int) - 2949075)
          rhNum := BitVec.ofNat 23 (100 * (d3.toNat * 256 + d4.toNat)) }
        seq := .idle
        chanHeld := false
        lat := ⟨op, i.arg, cmd, 6, .success, .success, [d0, d1, d2, d3, d4, d5]⟩
        ports := ((s.ports.afterAcquire s.cfg.sharedChannel).afterCalls 2).send
          [.acquire, .write (s.regs.addr.setWidth 8) [cmd.extractLsb' 8 8, cmd.extractLsb' 0 8] .success,
            .read (s.regs.addr.setWidth 8) 6 .success [d0, d1, d2, d3, d4, d5], .release, .response .success 0] }

/-- R127, with R128: RDSTAT, where the write succeeds and three bytes come back: `STATUS` takes the first two, `HEATER_ON`
bit 13, the checksum byte is dropped, and the payload is the two registers. -/
def Obligations.RdstatCommitsReply : Prop :=
  ∀ (s : State) (arg d0 d1 d2 : Byte), ReadyFor s → s.writeOutcome = .success → s.readAnswer = ⟨.success, [d0, d1, d2]⟩ →
    exec (.rdstat arg) s = .next {
      cfg := s.cfg
      regs := { s.regs with status := d0 ++ d1, heaterOn := (d0 ++ d1).getLsbD 13 }
      seq := .idle
      chanHeld := false
      lat := ⟨.rdstat, arg, s.cfg.cmdRdstat, 3, .success, .success, [d0, d1, d2]⟩
      ports := ((s.ports.afterAcquire s.cfg.sharedChannel).afterCalls 2).send
        [.acquire,
          .write (s.regs.addr.setWidth 8) [s.cfg.cmdRdstat.extractLsb' 8 8, s.cfg.cmdRdstat.extractLsb' 0 8] .success,
          .read (s.regs.addr.setWidth 8) 3 .success [d0, d1, d2], .release,
          .response .success (0#8 ++ BitVec.ofBool ((d0 ++ d1).getLsbD 13) ++ (d0 ++ d1))] }

/-- R103, R104: the 21 write-only instructions, whatever the write's outcome: it is the result, no register changes, no
`Read` is made; PERIODIC.1 to PERIODIC.15 and ART wait first, where the write succeeded or `DELAY_ON_FAILED_WRITE` (the
timer running out at the first question). -/
def Obligations.WriteOnlyReportsOutcome : Prop :=
  ∀ (i : Instr) (op : BusOp) (s : State),
    i.op = .bus op → op ≠ .meas → op ≠ .fetch → op ≠ .rdstat → ReadyFor s →
    ∃ cmd, catalog s.cfg op i.arg = some cmd ∧
      (((op = .periodic ∨ op = .art) ∧ (s.writeOutcome = .success ∨ s.cfg.delayOnFailedWrite = true)) →
        s.ports.timerDone = true →
        exec i s = .next {
          cfg := s.cfg
          regs := s.regs
          seq := .idle
          chanHeld := false
          lat := { s.lat with op := op, arg := i.arg, cmd := cmd, rlen := 0, wout := s.writeOutcome }
          ports := ((s.ports.afterAcquire s.cfg.sharedChannel).afterCalls 1).takeTimer.send
            [.acquire, .write (s.regs.addr.setWidth 8) [cmd.extractLsb' 8 8, cmd.extractLsb' 0 8] s.writeOutcome,
              .release, .delayStart s.cfg.tDelay, .delayDone, .response (resultOf s.writeOutcome) 0] }) ∧
      (¬ ((op = .periodic ∨ op = .art) ∧ (s.writeOutcome = .success ∨ s.cfg.delayOnFailedWrite = true)) →
        exec i s = .next {
          cfg := s.cfg
          regs := s.regs
          seq := .idle
          chanHeld := false
          lat := { s.lat with op := op, arg := i.arg, cmd := cmd, rlen := 0, wout := s.writeOutcome }
          ports := ((s.ports.afterAcquire s.cfg.sharedChannel).afterCalls 1).send
            [.acquire, .write (s.regs.addr.setWidth 8) [cmd.extractLsb' 8 8, cmd.extractLsb' 0 8] s.writeOutcome,
              .release, .response (resultOf s.writeOutcome) 0] })

/-- R86, R126 (b): where the delay has not run out at the first question, PERIODIC and ART stay in `DELAY`: the channel is
released, there is no response yet, and no register has changed. -/
def Obligations.DelayedOperationIsHeld : Prop :=
  ∀ (i : Instr) (op : BusOp) (s : State),
    i.op = .bus op → op = .periodic ∨ op = .art → ReadyFor s →
    s.writeOutcome = .success ∨ s.cfg.delayOnFailedWrite = true → s.ports.timerDone = false →
    ∃ cmd, catalog s.cfg op i.arg = some cmd ∧
      exec i s = .next {
        cfg := s.cfg
        regs := s.regs
        seq := .delay
        chanHeld := false
        lat := { s.lat with op := op, arg := i.arg, cmd := cmd, rlen := 0, wout := s.writeOutcome }
        ports := ((s.ports.afterAcquire s.cfg.sharedChannel).afterCalls 1).takeTimer.send
          [.acquire, .write (s.regs.addr.setWidth 8) [cmd.extractLsb' 8 8, cmd.extractLsb' 0 8] s.writeOutcome,
            .release, .delayStart s.cfg.tDelay] }

/-- R86, R103: a step in `DELAY` ends the operation with the write's outcome once the timer has run out, and else makes no
event at all. -/
def Obligations.DelayEndsWithWriteOutcome : Prop :=
  ∀ s : State, s.seq = .delay → s.lat.op = .periodic ∨ s.lat.op = .art → s.lat.rlen = 0 →
    (s.ports.timerDone = true →
      step s = .next { s with
        seq := .idle, ports := s.ports.takeTimer.send [.delayDone, .response (resultOf s.lat.wout) 0] }) ∧
    (s.ports.timerDone = false → step s = .next { s with ports := s.ports.takeTimer })

/-- R77: under `SHARED_CHANNEL`, while another master has the channel, every bus instruction is latched and held in `ACQ`,
with no event, and a step there makes none. -/
def Obligations.SharedChannelHoldsOperation : Prop :=
  ∀ (i : Instr) (op : BusOp) (s : State),
    i.op = .bus op → s.seq = .idle → s.regs.constructed = true → s.cfg.sharedChannel = true →
    s.ports.channelFree = false →
    ∃ cmd, catalog s.cfg op i.arg = some cmd ∧
      exec i s = .next { s with
        seq := .acq
        lat := { s.lat with op := op, arg := i.arg, cmd := cmd, rlen := readLength op }
        ports := s.ports.takeChannel }

/-- R151, R78: MEAS.1 to MEAS.6, FETCH and RDSTAT, where the write fails and `READ_AFTER_FAILED_WRITE` is false: no `Read` is
made, the channel is released, the result is the write's outcome, and no register changes. -/
def Obligations.FailedWriteSkipsRead : Prop :=
  ∀ (i : Instr) (op : BusOp) (s : State),
    i.op = .bus op → op = .meas ∨ op = .fetch ∨ op = .rdstat → ReadyFor s → s.writeOutcome ≠ .success →
    s.cfg.readAfterFailedWrite = false →
    ∃ cmd, catalog s.cfg op i.arg = some cmd ∧
      exec i s = .next {
        cfg := s.cfg
        regs := s.regs
        seq := .idle
        chanHeld := false
        lat := { s.lat with
          op := op, arg := i.arg, cmd := cmd, rlen := if op = .rdstat then 3 else 6, wout := s.writeOutcome }
        ports := ((s.ports.afterAcquire s.cfg.sharedChannel).afterCalls 1).send
          [.acquire, .write (s.regs.addr.setWidth 8) [cmd.extractLsb' 8 8, cmd.extractLsb' 0 8] s.writeOutcome,
            .release, .response (resultOf s.writeOutcome) 0] }

/-- R83, R84, R157: with `READ_AFTER_FAILED_WRITE` the read is made after the failed write, its answer is dropped, and the
write's outcome is the result; no register changes. -/
def Obligations.FailedWriteOutranksRead : Prop :=
  ∀ (i : Instr) (op : BusOp) (s : State),
    i.op = .bus op → op = .meas ∨ op = .fetch ∨ op = .rdstat → ReadyFor s → s.writeOutcome ≠ .success →
    s.cfg.readAfterFailedWrite = true →
    ∃ (cmd : Word16) (t : State), catalog s.cfg op i.arg = some cmd ∧ exec i s = .next t ∧
      t.regs = s.regs ∧ t.seq = .idle ∧ t.chanHeld = false ∧ t.cfg = s.cfg ∧
      t.ports = ((s.ports.afterAcquire s.cfg.sharedChannel).afterCalls 2).send
        [.acquire, .write (s.regs.addr.setWidth 8) [cmd.extractLsb' 8 8, cmd.extractLsb' 0 8] s.writeOutcome,
          .read (s.regs.addr.setWidth 8) (if op = .rdstat then 3 else 6) s.readAnswer.outcome s.readAnswer.data,
          .release, .response (resultOf s.writeOutcome) 0]

/-- R152, R153, R81: after a successful write, a read that fails makes the operation fail with its outcome, and a `Success`
of another length than asked with `NoDataAvailable`; no register changes. -/
def Obligations.FailedReadFailsOperation : Prop :=
  ∀ (i : Instr) (op : BusOp) (s : State),
    i.op = .bus op → op = .meas ∨ op = .fetch ∨ op = .rdstat → ReadyFor s → s.writeOutcome = .success →
    s.readAnswer.outcome ≠ .success ∨ s.readAnswer.data.length ≠ (if op = .rdstat then 3 else 6) →
    ∃ (cmd : Word16) (t : State), catalog s.cfg op i.arg = some cmd ∧ exec i s = .next t ∧
      t.regs = s.regs ∧ t.seq = .idle ∧ t.chanHeld = false ∧ t.cfg = s.cfg ∧
      t.ports = ((s.ports.afterAcquire s.cfg.sharedChannel).afterCalls 2).send
        [.acquire, .write (s.regs.addr.setWidth 8) [cmd.extractLsb' 8 8, cmd.extractLsb' 0 8] .success,
          .read (s.regs.addr.setWidth 8) (if op = .rdstat then 3 else 6) s.readAnswer.outcome s.readAnswer.data,
          .release,
          .response (if s.readAnswer.outcome = .success then .noDataAvailable else resultOf s.readAnswer.outcome) 0]

/-! ## Frames -/

/-- R29: what the bus instructions leave alone, whichever way they end or are held: the write-only ones every register; MEAS
and FETCH all but `BUF`, `TEMP_NUM`, `RH_NUM`; RDSTAT all but `STATUS`, `HEATER_ON`; all of them the parameters and the
host's further requests.  There is no memory. -/
def Obligations.BusInstructionFrames : Prop :=
  ∀ (i : Instr) (op : BusOp) (s t : State), i.op = .bus op → exec i s = .next t →
    t.cfg = s.cfg ∧ t.ports.requests = s.ports.requests ∧
    t.regs.addr = s.regs.addr ∧ t.regs.constructed = s.regs.constructed ∧
    (op ≠ .meas → op ≠ .fetch →
      t.regs.buf = s.regs.buf ∧ t.regs.tempNum = s.regs.tempNum ∧ t.regs.rhNum = s.regs.rhNum) ∧
    (op ≠ .rdstat → t.regs.status = s.regs.status ∧ t.regs.heaterOn = s.regs.heaterOn)

/-- R155: a step whose last event is a non-success response leaves every register as it was, with a zero payload and the
engine in `IDLE`. -/
def Obligations.FailureKeepsRegisters : Prop :=
  ∀ (s t : State) (es : List Event) (r : Result) (p : Payload), step s = .next t →
    t.ports.trace = s.ports.trace ++ es ++ [.response r p] → r ≠ .success →
    p = 0 ∧ t.seq = .idle ∧ t.regs = s.regs

/-- R14: `ADDR` is written only by CONSTRUCT, with its operand's low seven bits. -/
def Obligations.OnlyConstructWritesAddress : Prop :=
  ∀ s t : State, step s = .next t → t.regs.addr ≠ s.regs.addr →
    ∃ (w : ReqWord) (rest : List ReqWord) (arg : Byte), s.seq = .idle ∧ s.ports.requests = w :: rest ∧
      decode w = .ok (.construct arg) ∧ t.regs.addr = arg.setWidth 7

/-- R17, R18: `STATUS` and `HEATER_ON` change only by CONSTRUCT, which zeroes them, or in a successful RDSTAT, whose payload
they are; HEATON, HEATOFF, CLRSTAT and SRESET change neither. -/
def Obligations.StatusOnlyFromRdstat : Prop :=
  ∀ s t : State, step s = .next t →
    t.regs.status ≠ s.regs.status ∨ t.regs.heaterOn ≠ s.regs.heaterOn →
    (∃ (w : ReqWord) (rest : List ReqWord) (arg : Byte), s.seq = .idle ∧ s.ports.requests = w :: rest ∧
      decode w = .ok (.construct arg) ∧ t.regs.status = 0 ∧ t.regs.heaterOn = false) ∨
    (t.lat.op = .rdstat ∧ t.seq = .idle ∧ t.regs.heaterOn = t.regs.status.getLsbD 13 ∧
      ∃ es, t.ports.trace = s.ports.trace ++ es ++
        [.response .success (0#8 ++ BitVec.ofBool t.regs.heaterOn ++ t.regs.status)])

/-- R25, R53: the parameters, the catalog among them, never change. -/
def Obligations.ParametersNeverChange : Prop :=
  ∀ s t : State, step s = .next t → t.cfg = s.cfg

/-! ## Reset and invariants -/

/-- R27, R171: the registers after reset are R27's table; the address 0x44 is the model's choice (log 1).  CONSTRUCT of that
address at power-on gives the same machine. -/
def Obligations.ResetIsConstruct : Prop :=
  State.reset.regs = ⟨0x44, ⟨0, 0, 0, 0, 0, 0⟩, 0, 0, 0, false, true⟩ ∧
  State.reset.seq = .idle ∧ State.reset.chanHeld = false ∧
  State.powerOn.regs.constructed = false ∧ State.powerOn.seq = .idle ∧ State.powerOn.chanHeld = false ∧
  exec (.construct 0x44) State.powerOn =
    .next { State.reset with ports := { State.reset.ports with trace := [.response .success 0] } }

/-- The machine after reset meets the invariant. -/
def Obligations.ResetMeetsInvariant : Prop := EngineInv State.reset

/-- R21, R23, R24, R75 to R82: every step keeps the invariant, from every state that meets it. -/
def Obligations.StepKeepsInvariant : Prop :=
  ∀ s t : State, EngineInv s → step s = .next t → EngineInv t

/-- The same for every single step of the sequencer, where `WRITE`, `READ`, `REL` and `RESP` are seen too. -/
def Obligations.SequencerStepKeepsInvariant : Prop :=
  ∀ s t : State, EngineInv s → fineStep s = .next t → EngineInv t

/-! ## The bus -/

/-- R48, R79: every `Write` a step makes goes to `zext_8(ADDR)` and carries a command word of the catalog, high byte
first. -/
def Obligations.WritesCarryCatalogWords : Prop :=
  ∀ (s t : State) (es : List Event) (a : Byte) (b : List Byte) (o : BusOutcome), EngineInv s → step s = .next t →
    t.ports.trace = s.ports.trace ++ es → .write a b o ∈ es →
    a = t.regs.addr.setWidth 8 ∧
    ∃ (op : BusOp) (m : Byte) (c : Word16), catalog s.cfg op m = some c ∧ b = [c.extractLsb' 8 8, c.extractLsb' 0 8]

/-- R52, R84: an instruction makes no transport event, or exactly one transaction, bracketed: `Acquire` first, one `Write`,
at most one `Read`, `Release` last.  The same of a step that takes a request, or goes on from a hold in `ACQ`. -/
def Obligations.OneTransactionPerInstruction : Prop :=
  ∀ s t : State,
    ((∃ i : Instr, exec i s = .next t) ∨ (step s = .next t ∧ (s.seq = .idle ∨ s.seq = .acq))) →
    ∃ es : List Event, t.ports.trace = s.ports.trace ++ es ∧ ((∀ e ∈ es, e.isTransport = false) ∨ IsTransaction es)

/-- R25, R165: the trace is an output: what a step does, and the events it adds, do not depend on what went out before. -/
def Obligations.TraceIsOnlyAnOutput : Prop :=
  ∀ (s t : State) (tr : List Event), step s = .next t →
    ∃ es, t.ports.trace = s.ports.trace ++ es ∧
      step { s with ports := { s.ports with trace := tr } } =
        .next { t with ports := { t.ports with trace := tr ++ es } }

/-! ## The converter and the words the host reads -/

/-- R132, R133: the registers hold the exact numerators: 25 bits two's complement and 23 bits lose nothing. -/
def Obligations.ConverterIsExact : Prop :=
  ∀ b : Buf,
    (convTemp b).toInt = 175 * ((b.b0.toNat * 256 + b.b1.toNat : Nat) : Int) - 2949075 ∧
    (convRh b).toNat = 100 * (b.b3.toNat * 256 + b.b4.toNat)

/-- R133: the ranges, and the sign of the temperature numerator, which is never 0. -/
def Obligations.ConverterRanges : Prop :=
  ∀ b : Buf,
    -2949075 ≤ (convTemp b).toInt ∧ (convTemp b).toInt ≤ 8519550 ∧ (convRh b).toNat ≤ 6553500 ∧
    ((convTemp b).toInt < 0 ↔ b.rawTemp.toNat ≤ 16851) ∧ (0 < (convTemp b).toInt ↔ 16852 ≤ b.rawTemp.toNat)

/-- R135: (a) `65535 * temperature = -45 * 65535 + 175 * raw`, strictly increasing by 175 a step; (b)
`65535 * humidity = 100 * raw`, within 0 and 100 %, strictly increasing by 100 a step; (c) the raw words are the exact
quotients of the numerators, and so `Conv` is injective on them; (d) `TEMP_NUM = 175 * (raw_temp - 16852) + 25`, 25 modulo
175, and `RH_NUM` is a multiple of 100. -/
def Obligations.ConverterIsInvertible : Prop :=
  (∀ raw : Nat, tempNumerator raw = -45 * 65535 + 175 * raw ∧ tempNumerator (raw + 1) = tempNumerator raw + 175 ∧
    rhNumerator raw = 100 * raw ∧ rhNumerator (raw + 1) = rhNumerator raw + 100 ∧
    (raw ≤ 65535 → rhNumerator raw ≤ 100 * 65535)) ∧
  (∀ b : Buf,
    (rawOfTempNum (convTemp b).toInt).num = b.rawTemp.toNat * (rawOfTempNum (convTemp b).toInt).den ∧
    (rawOfRhNum (convRh b).toNat).num = b.rawRh.toNat * (rawOfRhNum (convRh b).toNat).den ∧
    (convTemp b).toInt = 175 * ((b.rawTemp.toNat : Int) - 16852) + 25 ∧
    (convTemp b).toInt % 175 = 25 ∧ (convRh b).toNat % 100 = 0) ∧
  (∀ b c : Buf, convTemp b = convTemp c → convRh b = convRh c → b.rawTemp = c.rawTemp ∧ b.rawRh = c.rawRh)

/-- R58, R59, R66, R129: the host finds the result's code, 0 to 7, in bits 27:25 and the payload in bits 24:0; in RDSTAT's
payload the status word in bits 15:0, the heater flag in bit 16, and the seven named flags in bits 15, 13, 11, 10, 4, 1 and
0. -/
def Obligations.ResponseFields : Prop :=
  (∀ p : Payload,
    [Result.success, .payloadTooLong, .addressNack, .dataNack, .otherError, .timeout, .noDataAvailable, .invalidMode].map
      (fun r => ((responseWord r p).extractLsb' 25 3).toNat) = [0, 1, 2, 3, 4, 5, 6, 7]) ∧
  (∀ (r : Result) (p : Payload), (responseWord r p).extractLsb' 0 25 = p) ∧
  (∀ (h : Bool) (w : Word16),
    (statusPayload h w).extractLsb' 0 16 = w ∧ (statusPayload h w).getLsbD 16 = h ∧
    (statusPayload h w).extractLsb' 17 8 = 0 ∧
    (statusFlags w).alertPending = (statusPayload h w).getLsbD 15 ∧
    (statusFlags w).heater = (statusPayload h w).getLsbD 13 ∧
    (statusFlags w).rhAlert = (statusPayload h w).getLsbD 11 ∧
    (statusFlags w).tAlert = (statusPayload h w).getLsbD 10 ∧
    (statusFlags w).resetDetected = (statusPayload h w).getLsbD 4 ∧
    (statusFlags w).cmdNotExecuted = (statusPayload h w).getLsbD 1 ∧
    (statusFlags w).checksumFailed = (statusPayload h w).getLsbD 0)

/-- R137: the exact values of the floating view, in every format at least as precise and as wide as binary32, which R136
says its operands are exact in (what a format is, and what a narrower one gives, is log 19); the reset values' view is
`+0.0` in every format (R136). -/
def Obligations.FloatViewExactValues : Prop :=
  (∀ f : FpFormat, 24 ≤ f.precision → 8 ≤ f.expBits →
    (floatTValue f (-2949075)).IsInt (-45) ∧ (floatTValue f 1638375).IsInt 25 ∧ (floatTValue f 8519550).IsInt 130 ∧
    (floatRHValue f 0).IsInt 0 ∧ (floatRHValue f 6553500).IsInt 100) ∧
  (∀ f : FpFormat, floatT f 0 = 0)

/-- R136, "round to nearest, ties to even": the integer a fraction is rounded to is at most half away, and even where it is
exactly half away. -/
def Obligations.RoundingIsHalfEven : Prop :=
  ∀ n d : Nat, 0 < d →
    2 * ((n : Int) - roundHalfEven n d * d).natAbs ≤ d ∧
    (2 * ((n : Int) - roundHalfEven n d * d).natAbs = d → roundHalfEven n d % 2 = 0)

/-! ## Every operation ends -/

/-- R86, R187 ("order plus fairness"), D20: `DelayDone` is eventually taken: from `DELAY` some number of steps makes
`DelayDone`, then the response, and nothing else, whatever the timer's input says (the model's form of it is log 7). -/
def Obligations.DelayEventuallyEnds : Prop :=
  ∀ s : State, s.seq = .delay →
    ∃ (n : Nat) (t : State) (r : Result) (p : Payload), stepRun n s = .next t ∧ t.seq = .idle ∧
      t.ports.trace = s.ports.trace ++ [.delayDone, .response r p]

/-- R52, R91: under fairness every accepted operation responds exactly once: one in flight, and one an instruction has
begun.  The timer is fair (log 7); that the channel comes free, where it is shared, is the hypothesis (log 6). -/
def Obligations.AcceptedOperationResponds : Prop :=
  (∀ s : State, s.seq ≠ .idle → ChannelFair s →
    ∃ (n : Nat) (t : State) (es : List Event), stepRun n s = .next t ∧ t.seq = .idle ∧
      t.ports.trace = s.ports.trace ++ es ∧ EndsWithOneResponse es) ∧
  (∀ (i : Instr) (s t : State), exec i s = .next t → ChannelFair s →
    ∃ (n : Nat) (u : State) (es : List Event), stepRun n t = .next u ∧ u.seq = .idle ∧
      u.ports.trace = s.ports.trace ++ es ∧ EndsWithOneResponse es)
end

