-- ==== Sys2Proof/Laws/PerInstr.lean ====
section
/-! SUPPORT. Laws of every instruction as syntax, one lemma a constructor.  Family `OpField`: the request word of an
instruction carries its operation number in bits 11:8 and its operand byte in bits 7:0 (R55, R56). -/

namespace Sys2Proof

/-- The two fields of a request word are what it was built from (R55). -/
theorem requestWord_fields (op : Op) (arg : Byte) :
    opField (requestWord op arg) = op.code ∧ argField (requestWord op arg) = arg := by
  have h := Nat.shiftLeft_add_eq_or_of_lt arg.isLt op.code.toNat
  rw [Nat.shiftLeft_eq] at h
  refine ⟨BitVec.eq_of_toNat_eq ?_, BitVec.eq_of_toNat_eq ?_⟩ <;>
    simp only [opField, argField, requestWord, BitVec.extractLsb'_toNat, BitVec.toNat_append,
      Nat.shiftRight_eq_div_pow, Nat.shiftLeft_eq, ← h] <;>
    omega

namespace Laws.OpField

/-- The fields of the instruction's request word. -/
def Statement (i : Instr) : Prop := opField (encode i) = i.op.code ∧ argField (encode i) = i.arg

theorem construct (arg : Byte) : Statement (.construct arg) := requestWord_fields _ _
theorem meas1 : Statement .meas1 := requestWord_fields _ _
theorem meas2 : Statement .meas2 := requestWord_fields _ _
theorem meas3 : Statement .meas3 := requestWord_fields _ _
theorem meas4 : Statement .meas4 := requestWord_fields _ _
theorem meas5 : Statement .meas5 := requestWord_fields _ _
theorem meas6 : Statement .meas6 := requestWord_fields _ _
theorem periodic1 : Statement .periodic1 := requestWord_fields _ _
theorem periodic2 : Statement .periodic2 := requestWord_fields _ _
theorem periodic3 : Statement .periodic3 := requestWord_fields _ _
theorem periodic4 : Statement .periodic4 := requestWord_fields _ _
theorem periodic5 : Statement .periodic5 := requestWord_fields _ _
theorem periodic6 : Statement .periodic6 := requestWord_fields _ _
theorem periodic7 : Statement .periodic7 := requestWord_fields _ _
theorem periodic8 : Statement .periodic8 := requestWord_fields _ _
theorem periodic9 : Statement .periodic9 := requestWord_fields _ _
theorem periodic10 : Statement .periodic10 := requestWord_fields _ _
theorem periodic11 : Statement .periodic11 := requestWord_fields _ _
theorem periodic12 : Statement .periodic12 := requestWord_fields _ _
theorem periodic13 : Statement .periodic13 := requestWord_fields _ _
theorem periodic14 : Statement .periodic14 := requestWord_fields _ _
theorem periodic15 : Statement .periodic15 := requestWord_fields _ _
theorem fetch (arg : Byte) : Statement (.fetch arg) := requestWord_fields _ _
theorem brk (arg : Byte) : Statement (.brk arg) := requestWord_fields _ _
theorem sreset (arg : Byte) : Statement (.sreset arg) := requestWord_fields _ _
theorem rdstat (arg : Byte) : Statement (.rdstat arg) := requestWord_fields _ _
theorem clrstat (arg : Byte) : Statement (.clrstat arg) := requestWord_fields _ _
theorem heaton (arg : Byte) : Statement (.heaton arg) := requestWord_fields _ _
theorem heatoff (arg : Byte) : Statement (.heatoff arg) := requestWord_fields _ _
theorem art (arg : Byte) : Statement (.art arg) := requestWord_fields _ _
theorem gett (arg : Byte) : Statement (.gett arg) := requestWord_fields _ _
theorem getrh (arg : Byte) : Statement (.getrh arg) := requestWord_fields _ _

end Laws.OpField

end Sys2Proof
end

