-- ==== Sys2Proof/Laws/Codec.lean ====
section
/-! SUPPORT. What the fields of a request word are, and what the parts of the decoder can answer (R55 to R57). -/

namespace Sys2Proof

/-- The fields of a request word as numbers (R55). -/
theorem fields_toNat (w : ReqWord) : (opField w).toNat = w.toNat / 256 ∧ (argField w).toNat = w.toNat % 256 := by
  simp only [opField, argField, BitVec.extractLsb'_toNat, Nat.shiftRight_eq_div_pow]
  omega

/-- A request word is its two fields (R55). -/
theorem word_eq_fields (w : ReqWord) : w = opField w ++ argField w := by
  have h := Nat.shiftLeft_add_eq_or_of_lt (argField w).isLt (opField w).toNat
  obtain ⟨ho, ha⟩ := fields_toNat w
  refine BitVec.eq_of_toNat_eq ?_
  rw [BitVec.toNat_append, ← h, ho, ha, Nat.shiftLeft_eq]
  omega

/-- The operation a number names has that number (R56). -/
theorem code_of_ofCode {c : BitVec 4} {op : Op} (h : Op.ofCode c = some op) : op.code = c := by
  unfold Op.ofCode at h
  split at h <;> simp at h <;> subst h <;> refine BitVec.eq_of_toNat_eq ?_ <;> simp_all [Op.code, BusOp.code]

/-- A mode that has a single-shot instruction is its operand (R57 a). -/
theorem orInvalidMode_meas {arg : Byte} {i : Instr} (h : orInvalidMode .meas arg (measOfMode arg.toNat) = .ok i) :
    i.op = .bus .meas ∧ i.arg = arg ∧ WellFormed i := by
  unfold measOfMode at h
  split at h <;> simp [orInvalidMode] at h <;> subst h <;> refine ⟨rfl, BitVec.eq_of_toNat_eq ?_, rfl⟩ <;>
    simp_all [Instr.arg]

/-- A mode that has a periodic instruction is its operand (R57 a). -/
theorem orInvalidMode_periodic {arg : Byte} {i : Instr}
    (h : orInvalidMode .periodic arg (periodicOfMode arg.toNat) = .ok i) :
    i.op = .bus .periodic ∧ i.arg = arg ∧ WellFormed i := by
  unfold periodicOfMode at h
  split at h <;> simp [orInvalidMode] at h <;> subst h <;> refine ⟨rfl, BitVec.eq_of_toNat_eq ?_, rfl⟩ <;>
    simp_all [Instr.arg]

/-- What operand decoding answers is that operation with that operand byte, well formed (R57, R67). -/
theorem decodeOperand_ok {op : Op} {arg : Byte} {i : Instr} (h : decodeOperand op arg = .ok i) :
    i.op = op ∧ i.arg = arg ∧ WellFormed i := by
  unfold decodeOperand at h
  split at h
  case h_1 =>
    cases hm : arg.msb <;> simp [hm] at h
    subst h
    simp [Instr.op, Instr.arg, WellFormed, Instr.wellFormed, hm]
  case h_2 => exact orInvalidMode_meas h
  case h_3 => exact orInvalidMode_periodic h
  all_goals
    simp at h
    subst h
    exact ⟨rfl, rfl, rfl⟩

/-- Bytes side by side as a number (R10). -/
theorem append_toNat (hi lo : Byte) : (hi ++ lo : Word16).toNat = hi.toNat * 256 + lo.toNat := by
  rw [BitVec.toNat_append, ← Nat.shiftLeft_add_eq_or_of_lt lo.isLt, Nat.shiftLeft_eq]

end Sys2Proof
end

