-- ==== Sys2Proof/Laws/FloatView.lean ====
section
/-! SUPPORT. Where the floating view is exact (R136): integers below `2 ^ 24`, in binary32 and wider. -/

namespace Sys2Proof.Machine

theorem log2_mul_pow (a k : Nat) (h : 0 < a) : (a * 2 ^ k).log2 = a.log2 + k := by
  rw [Nat.log2_eq_iff (by positivity)]
  have h1 := Nat.log2_self_le (n := a) (by omega)
  have h2 := Nat.lt_log2_self (n := a)
  rw [show a.log2 + k + 1 = (a.log2 + 1) + k by omega, pow_add, pow_add]
  exact ⟨Nat.mul_le_mul_right _ h1, Nat.mul_lt_mul_of_pos_right h2 (by positivity)⟩

/-- An integer multiple of the denominator has the integer's logarithm. -/
theorem floorLog2_mul_self (a d : Nat) (ha : 0 < a) (hd : 0 < d) : floorLog2 (a * d) d = a.log2 := by
  have a1 := Nat.log2_self_le (n := a) (by omega)
  have a2 := Nat.lt_log2_self (n := a)
  have d1 := Nat.log2_self_le (n := d) (by omega)
  have d2 := Nat.lt_log2_self (n := d)
  have hl : (a*d).log2 = a.log2 + d.log2 ∨ (a*d).log2 = a.log2 + d.log2 + 1 := by
    have h1 : a.log2 + d.log2 ≤ (a*d).log2 := by
      rw [Nat.le_log2 (by positivity), pow_add]; exact Nat.mul_le_mul a1 d1
    have h2 : (a*d).log2 < a.log2 + d.log2 + 2 := by
      rw [Nat.log2_lt (by positivity), show a.log2 + d.log2 + 2 = (a.log2+1) + (d.log2+1) by omega, pow_add]
      exact Nat.mul_lt_mul'' a2 d2
    omega
  unfold floorLog2
  rcases hl with h | h <;> rw [h]
  · have e1 : ((a.log2 + d.log2 : Nat) : Int) - (d.log2 : Int) = (a.log2 : Int) := by push_cast; ring
    have e2 : (-(a.log2 : Int)).toNat = 0 := by omega
    simp only [e1, e2, Int.toNat_natCast]
    rw [if_pos]; rw [mul_comm d]; simpa using Nat.mul_le_mul_right d a1
  · have e1 : ((a.log2 + d.log2 + 1 : Nat) : Int) - (d.log2 : Int) = ((a.log2 + 1 : Nat) : Int) := by push_cast; ring
    have e2 : (-((a.log2 + 1 : Nat) : Int)).toNat = 0 := by omega
    simp only [e1, e2, Int.toNat_natCast]
    rw [if_neg]; · push_cast; ring
    rw [mul_comm d, not_le]; simpa using Nat.mul_lt_mul_of_pos_right a2 hd

/-- The largest exponent of a format as wide as binary32. -/
theorem fpBias_ge (f : FpFormat) (h : 8 ≤ f.expBits) : 127 ≤ fpBias f := by
  have : (2:Int)^7 ≤ 2 ^ (f.expBits - 1) := pow_le_pow_right₀ (by norm_num) (by omega)
  unfold fpBias; omega

/-- R136: an integer below `2 ^ 24` is exact in binary32 and wider. -/
theorem rn_exact {f : FpFormat} (hp : 24 ≤ f.precision) (hw : 8 ≤ f.expBits) {x : Frac} {N : Int}
    (hd : 0 < x.den) (hx : x.num = N * x.den) (hN : N.natAbs < 2 ^ 24) : (rn f x).IsInt N := by
  have hb := fpBias_ge f hw
  by_cases h0 : N = 0
  · subst h0
    have : x.num = 0 := by simpa using hx
    exact ⟨⟨0, 1⟩, by simp [rn, this, FpValue.zero], by simp, by simp⟩
  have ha : 0 < N.natAbs := by omega
  have hn : x.num.natAbs = N.natAbs * x.den := by rw [hx, Int.natAbs_mul]; simp
  have hs : x.num.sign = N.sign := by rw [hx, Int.sign_mul, Int.sign_eq_one_of_pos (by omega : (0:Int) < x.den)]; simp
  have hne : x.num ≠ 0 := by intro h; rw [h] at hn; simp at hn; omega
  have hL : N.natAbs.log2 < 24 := (Nat.log2_lt (by omega)).2 hN
  have hlp : lastPlace f x.num.natAbs x.den ≤ 0 := by
    unfold lastPlace; rw [hn, floorLog2_mul_self _ _ ha hd]; omega
  obtain ⟨k, hk⟩ : ∃ k : Nat, lastPlace f x.num.natAbs x.den = -(k : Int) := ⟨(-(lastPlace f x.num.natAbs x.den)).toNat, by omega⟩
  have hsig : significand f x.num.natAbs x.den = N.natAbs * 2 ^ k := by
    unfold significand
    simp only [hk, neg_neg, Int.toNat_natCast]
    have e : (-(k:Int)).toNat = 0 := by omega
    rw [e, hn, pow_zero, mul_one]
    have : N.natAbs * x.den * 2 ^ k = x.den * (N.natAbs * 2 ^ k) := by ring
    unfold roundHalfEven
    rw [this, Nat.mul_div_cancel_left _ hd, Nat.mul_mod_right]
    simp; omega
  have hm : N.natAbs * 2 ^ k ≠ 0 := by positivity
  unfold rn
  simp only [hsig, hk, hne, hm, or_self, if_false, log2_mul_pow _ _ ha]
  rw [if_neg (by push_cast; omega)]
  have e : (-(k:Int)).toNat = 0 := by omega
  refine ⟨_, rfl, by simp, ?_⟩
  simp only [e, neg_neg, Int.toNat_natCast, hs, pow_zero, mul_one]
  push_cast
  rw [← mul_assoc, Int.sign_mul_abs]

/-- An exact quotient stays exact. -/
theorem FpValue.div_isInt {f : FpFormat} (hp : 24 ≤ f.precision) (hw : 8 ≤ f.expBits) {u v : FpValue}
    {a b c : Int} (hu : u.IsInt a) (hv : v.IsInt b) (hb : 0 < b)
    (hc : a = c * b) (hN : c.natAbs < 2^24) : (FpValue.div f u v).IsInt c := by
  obtain ⟨x, rfl, hx, ex⟩ := hu
  obtain ⟨y, rfl, hy, ey⟩ := hv
  have hy0 : 0 < y.num := by rw [ey]; positivity
  simp only [FpValue.div]
  rw [if_pos (by omega)]
  apply rn_exact hp hw _ _ hN
  · simp [Frac.div]; constructor; exact hx; omega
  · simp only [Frac.div, Int.sign_eq_one_of_pos hy0, mul_one]
    rw [ex, hc]; push_cast; rw [abs_of_pos hy0, ey]; ring

/-- An exact sum stays exact. -/
theorem FpValue.add_isInt {f : FpFormat} (hp : 24 ≤ f.precision) (hw : 8 ≤ f.expBits) {u v : FpValue}
    {a b : Int} (hu : u.IsInt a) (hv : v.IsInt b) (hN : (a + b).natAbs < 2^24) : (FpValue.add f u v).IsInt (a + b) := by
  obtain ⟨x, rfl, hx, ex⟩ := hu
  obtain ⟨y, rfl, hy, ey⟩ := hv
  apply rn_exact hp hw _ _ hN
  · simp [Frac.add]; exact ⟨hx, hy⟩
  · simp only [Frac.add]; rw [ex, ey]; push_cast; ring

end Sys2Proof.Machine
end

