-- ==== Sys2Proof/Laws/State.lean ====
section
/-! SUPPORT. What each named update of the state and of the ports leaves in every field: one lemma a field, true by
unfolding the update, so that no later proof unfolds a record. -/

namespace Sys2Proof.Machine

/-! ### `Ports.takeAnswer` -/

@[simp] theorem Ports.takeAnswer_requests (p : Ports) : (p.takeAnswer).requests = p.requests := rfl
@[simp] theorem Ports.takeAnswer_answers (p : Ports) : (p.takeAnswer).answers = p.answers.tail := rfl
@[simp] theorem Ports.takeAnswer_answered (p : Ports) : (p.takeAnswer).answered = p.answered + 1 := rfl
@[simp] theorem Ports.takeAnswer_channel (p : Ports) : (p.takeAnswer).channel = p.channel := rfl
@[simp] theorem Ports.takeAnswer_channelAsked (p : Ports) : (p.takeAnswer).channelAsked = p.channelAsked := rfl
@[simp] theorem Ports.takeAnswer_timer (p : Ports) : (p.takeAnswer).timer = p.timer := rfl
@[simp] theorem Ports.takeAnswer_timerAsked (p : Ports) : (p.takeAnswer).timerAsked = p.timerAsked := rfl
@[simp] theorem Ports.takeAnswer_trace (p : Ports) : (p.takeAnswer).trace = p.trace := rfl

/-! ### `Ports.takeChannel` -/

@[simp] theorem Ports.takeChannel_requests (p : Ports) : (p.takeChannel).requests = p.requests := rfl
@[simp] theorem Ports.takeChannel_answers (p : Ports) : (p.takeChannel).answers = p.answers := rfl
@[simp] theorem Ports.takeChannel_answered (p : Ports) : (p.takeChannel).answered = p.answered := rfl
@[simp] theorem Ports.takeChannel_channel (p : Ports) : (p.takeChannel).channel = p.channel.tail := rfl
@[simp] theorem Ports.takeChannel_channelAsked (p : Ports) : (p.takeChannel).channelAsked = p.channelAsked + 1 := rfl
@[simp] theorem Ports.takeChannel_timer (p : Ports) : (p.takeChannel).timer = p.timer := rfl
@[simp] theorem Ports.takeChannel_timerAsked (p : Ports) : (p.takeChannel).timerAsked = p.timerAsked := rfl
@[simp] theorem Ports.takeChannel_trace (p : Ports) : (p.takeChannel).trace = p.trace := rfl

/-! ### `Ports.takeTimer` -/

@[simp] theorem Ports.takeTimer_requests (p : Ports) : (p.takeTimer).requests = p.requests := rfl
@[simp] theorem Ports.takeTimer_answers (p : Ports) : (p.takeTimer).answers = p.answers := rfl
@[simp] theorem Ports.takeTimer_answered (p : Ports) : (p.takeTimer).answered = p.answered := rfl
@[simp] theorem Ports.takeTimer_channel (p : Ports) : (p.takeTimer).channel = p.channel := rfl
@[simp] theorem Ports.takeTimer_channelAsked (p : Ports) : (p.takeTimer).channelAsked = p.channelAsked := rfl
@[simp] theorem Ports.takeTimer_timer (p : Ports) : (p.takeTimer).timer = p.timer.tail := rfl
@[simp] theorem Ports.takeTimer_timerAsked (p : Ports) : (p.takeTimer).timerAsked = p.timerAsked + 1 := rfl
@[simp] theorem Ports.takeTimer_trace (p : Ports) : (p.takeTimer).trace = p.trace := rfl

/-! ### `Ports.emit` -/

@[simp] theorem Ports.emit_requests (p : Ports) (e : Event) : (p.emit e).requests = p.requests := rfl
@[simp] theorem Ports.emit_answers (p : Ports) (e : Event) : (p.emit e).answers = p.answers := rfl
@[simp] theorem Ports.emit_answered (p : Ports) (e : Event) : (p.emit e).answered = p.answered := rfl
@[simp] theorem Ports.emit_channel (p : Ports) (e : Event) : (p.emit e).channel = p.channel := rfl
@[simp] theorem Ports.emit_channelAsked (p : Ports) (e : Event) : (p.emit e).channelAsked = p.channelAsked := rfl
@[simp] theorem Ports.emit_timer (p : Ports) (e : Event) : (p.emit e).timer = p.timer := rfl
@[simp] theorem Ports.emit_timerAsked (p : Ports) (e : Event) : (p.emit e).timerAsked = p.timerAsked := rfl
@[simp] theorem Ports.emit_trace (p : Ports) (e : Event) : (p.emit e).trace = p.trace ++ [e] := rfl

/-! ### `Ports.send` -/

@[simp] theorem Ports.send_requests (p : Ports) (es : List Event) : (p.send es).requests = p.requests := rfl
@[simp] theorem Ports.send_answers (p : Ports) (es : List Event) : (p.send es).answers = p.answers := rfl
@[simp] theorem Ports.send_answered (p : Ports) (es : List Event) : (p.send es).answered = p.answered := rfl
@[simp] theorem Ports.send_channel (p : Ports) (es : List Event) : (p.send es).channel = p.channel := rfl
@[simp] theorem Ports.send_channelAsked (p : Ports) (es : List Event) : (p.send es).channelAsked = p.channelAsked := rfl
@[simp] theorem Ports.send_timer (p : Ports) (es : List Event) : (p.send es).timer = p.timer := rfl
@[simp] theorem Ports.send_timerAsked (p : Ports) (es : List Event) : (p.send es).timerAsked = p.timerAsked := rfl
@[simp] theorem Ports.send_trace (p : Ports) (es : List Event) : (p.send es).trace = p.trace ++ es := rfl

/-! ### `Ports.afterCalls` -/

@[simp] theorem Ports.afterCalls_requests (p : Ports) (n : Nat) : (p.afterCalls n).requests = p.requests := rfl
@[simp] theorem Ports.afterCalls_answers (p : Ports) (n : Nat) : (p.afterCalls n).answers = p.answers.drop n := rfl
@[simp] theorem Ports.afterCalls_answered (p : Ports) (n : Nat) : (p.afterCalls n).answered = p.answered + n := rfl
@[simp] theorem Ports.afterCalls_channel (p : Ports) (n : Nat) : (p.afterCalls n).channel = p.channel := rfl
@[simp] theorem Ports.afterCalls_channelAsked (p : Ports) (n : Nat) : (p.afterCalls n).channelAsked = p.channelAsked := rfl
@[simp] theorem Ports.afterCalls_timer (p : Ports) (n : Nat) : (p.afterCalls n).timer = p.timer := rfl
@[simp] theorem Ports.afterCalls_timerAsked (p : Ports) (n : Nat) : (p.afterCalls n).timerAsked = p.timerAsked := rfl
@[simp] theorem Ports.afterCalls_trace (p : Ports) (n : Nat) : (p.afterCalls n).trace = p.trace := rfl

/-! ### `State.emit` -/

@[simp] theorem State.emit_cfg (s : State) (e : Event) : (s.emit e).cfg = s.cfg := rfl
@[simp] theorem State.emit_regs (s : State) (e : Event) : (s.emit e).regs = s.regs := rfl
@[simp] theorem State.emit_seq (s : State) (e : Event) : (s.emit e).seq = s.seq := rfl
@[simp] theorem State.emit_chanHeld (s : State) (e : Event) : (s.emit e).chanHeld = s.chanHeld := rfl
@[simp] theorem State.emit_lat (s : State) (e : Event) : (s.emit e).lat = s.lat := rfl
@[simp] theorem State.emit_ports (s : State) (e : Event) : (s.emit e).ports = s.ports.emit e := rfl

/-! ### `State.goto` -/

@[simp] theorem State.goto_cfg (s : State) (q : Phase) : (s.goto q).cfg = s.cfg := rfl
@[simp] theorem State.goto_regs (s : State) (q : Phase) : (s.goto q).regs = s.regs := rfl
@[simp] theorem State.goto_seq (s : State) (q : Phase) : (s.goto q).seq = q := rfl
@[simp] theorem State.goto_chanHeld (s : State) (q : Phase) : (s.goto q).chanHeld = s.chanHeld := rfl
@[simp] theorem State.goto_lat (s : State) (q : Phase) : (s.goto q).lat = s.lat := rfl
@[simp] theorem State.goto_ports (s : State) (q : Phase) : (s.goto q).ports = s.ports := rfl

/-! ### `succeed` -/

@[simp] theorem succeed_cfg (p : Payload) (s : State) : (succeed p s).cfg = s.cfg := rfl
@[simp] theorem succeed_regs (p : Payload) (s : State) : (succeed p s).regs = s.regs := rfl
@[simp] theorem succeed_seq (p : Payload) (s : State) : (succeed p s).seq = .idle := rfl
@[simp] theorem succeed_chanHeld (p : Payload) (s : State) : (succeed p s).chanHeld = s.chanHeld := rfl
@[simp] theorem succeed_lat (p : Payload) (s : State) : (succeed p s).lat = s.lat := rfl
@[simp] theorem succeed_ports (p : Payload) (s : State) : (succeed p s).ports = s.ports.emit (.response .success p) := rfl

/-! ### `fail` -/

@[simp] theorem fail_cfg (r : Result) (s : State) : (fail r s).cfg = s.cfg := rfl
@[simp] theorem fail_regs (r : Result) (s : State) : (fail r s).regs = s.regs := rfl
@[simp] theorem fail_seq (r : Result) (s : State) : (fail r s).seq = .idle := rfl
@[simp] theorem fail_chanHeld (r : Result) (s : State) : (fail r s).chanHeld = s.chanHeld := rfl
@[simp] theorem fail_lat (r : Result) (s : State) : (fail r s).lat = s.lat := rfl
@[simp] theorem fail_ports (r : Result) (s : State) : (fail r s).ports = s.ports.emit (.response r 0) := rfl

/-! ### `construct` -/

@[simp] theorem construct_cfg (a : BitVec 7) (s : State) : (construct a s).cfg = s.cfg := rfl
@[simp] theorem construct_regs (a : BitVec 7) (s : State) : (construct a s).regs = Regs.afterConstruct a := rfl
@[simp] theorem construct_seq (a : BitVec 7) (s : State) : (construct a s).seq = .idle := rfl
@[simp] theorem construct_chanHeld (a : BitVec 7) (s : State) : (construct a s).chanHeld = false := rfl
@[simp] theorem construct_lat (a : BitVec 7) (s : State) : (construct a s).lat = s.lat := rfl
@[simp] theorem construct_ports (a : BitVec 7) (s : State) : (construct a s).ports = s.ports := rfl

/-! ### `latchOperation` -/

@[simp] theorem latchOperation_cfg (op : BusOp) (arg : Byte) (c : Word16) (s : State) : (latchOperation op arg c s).cfg = s.cfg := rfl
@[simp] theorem latchOperation_regs (op : BusOp) (arg : Byte) (c : Word16) (s : State) : (latchOperation op arg c s).regs = s.regs := rfl
@[simp] theorem latchOperation_seq (op : BusOp) (arg : Byte) (c : Word16) (s : State) : (latchOperation op arg c s).seq = .acq := rfl
@[simp] theorem latchOperation_chanHeld (op : BusOp) (arg : Byte) (c : Word16) (s : State) : (latchOperation op arg c s).chanHeld = s.chanHeld := rfl
@[simp] theorem latchOperation_lat (op : BusOp) (arg : Byte) (c : Word16) (s : State) : (latchOperation op arg c s).lat = { s.lat with op := op, arg := arg, cmd := c, rlen := readLength op } := rfl
@[simp] theorem latchOperation_ports (op : BusOp) (arg : Byte) (c : Word16) (s : State) : (latchOperation op arg c s).ports = s.ports := rfl

/-! ### `commitMeasurement` -/

@[simp] theorem commitMeasurement_cfg (s : State) : (commitMeasurement s).cfg = s.cfg := rfl
@[simp] theorem commitMeasurement_regs (s : State) : (commitMeasurement s).regs = 
    { s.regs with
      buf := bufOfReply s.lat.rdata, tempNum := convTemp (bufOfReply s.lat.rdata), rhNum := convRh (bufOfReply s.lat.rdata) } := rfl
@[simp] theorem commitMeasurement_seq (s : State) : (commitMeasurement s).seq = s.seq := rfl
@[simp] theorem commitMeasurement_chanHeld (s : State) : (commitMeasurement s).chanHeld = s.chanHeld := rfl
@[simp] theorem commitMeasurement_lat (s : State) : (commitMeasurement s).lat = s.lat := rfl
@[simp] theorem commitMeasurement_ports (s : State) : (commitMeasurement s).ports = s.ports := rfl

/-! ### `commitStatus` -/

@[simp] theorem commitStatus_cfg (s : State) : (commitStatus s).cfg = s.cfg := rfl
@[simp] theorem commitStatus_regs (s : State) : (commitStatus s).regs = 
    { s.regs with
      status := statusOfReply s.lat.rdata, heaterOn := heaterFlag (statusOfReply s.lat.rdata) } := rfl
@[simp] theorem commitStatus_seq (s : State) : (commitStatus s).seq = s.seq := rfl
@[simp] theorem commitStatus_chanHeld (s : State) : (commitStatus s).chanHeld = s.chanHeld := rfl
@[simp] theorem commitStatus_lat (s : State) : (commitStatus s).lat = s.lat := rfl
@[simp] theorem commitStatus_ports (s : State) : (commitStatus s).ports = s.ports := rfl

/-! ### `State.takeRequest` -/

@[simp] theorem State.takeRequest_cfg (s : State) : (s.takeRequest).cfg = s.cfg := rfl
@[simp] theorem State.takeRequest_regs (s : State) : (s.takeRequest).regs = s.regs := rfl
@[simp] theorem State.takeRequest_seq (s : State) : (s.takeRequest).seq = s.seq := rfl
@[simp] theorem State.takeRequest_chanHeld (s : State) : (s.takeRequest).chanHeld = s.chanHeld := rfl
@[simp] theorem State.takeRequest_lat (s : State) : (s.takeRequest).lat = s.lat := rfl
@[simp] theorem State.takeRequest_ports (s : State) : (s.takeRequest).ports = { s.ports with requests := s.ports.requests.tail } := rfl

/-! ### `placeRequest` -/

@[simp] theorem placeRequest_cfg (w : ReqWord) (s : State) : (placeRequest w s).cfg = s.cfg := rfl
@[simp] theorem placeRequest_regs (w : ReqWord) (s : State) : (placeRequest w s).regs = s.regs := rfl
@[simp] theorem placeRequest_seq (w : ReqWord) (s : State) : (placeRequest w s).seq = .idle := rfl
@[simp] theorem placeRequest_chanHeld (w : ReqWord) (s : State) : (placeRequest w s).chanHeld = false := rfl
@[simp] theorem placeRequest_lat (w : ReqWord) (s : State) : (placeRequest w s).lat = s.lat := rfl
@[simp] theorem placeRequest_ports (w : ReqWord) (s : State) : (placeRequest w s).ports = { s.ports with requests := w :: s.ports.requests } := rfl

/-! ### `State.askChannel` and `commit`, which branch -/

@[simp] theorem State.askChannel_cfg (s : State) : s.askChannel.cfg = s.cfg := by
  unfold State.askChannel; split <;> rfl
@[simp] theorem State.askChannel_regs (s : State) : s.askChannel.regs = s.regs := by
  unfold State.askChannel; split <;> rfl
@[simp] theorem State.askChannel_seq (s : State) : s.askChannel.seq = s.seq := by
  unfold State.askChannel; split <;> rfl
@[simp] theorem State.askChannel_chanHeld (s : State) : s.askChannel.chanHeld = s.chanHeld := by
  unfold State.askChannel; split <;> rfl
@[simp] theorem State.askChannel_lat (s : State) : s.askChannel.lat = s.lat := by
  unfold State.askChannel; split <;> rfl
@[simp] theorem State.askChannel_ports (s : State) :
    s.askChannel.ports = s.ports.afterAcquire s.cfg.sharedChannel := by
  unfold State.askChannel Ports.afterAcquire; split <;> rfl
@[simp] theorem commit_cfg (op : BusOp) (s : State) : (commit op s).cfg = s.cfg := by
  cases op <;> rfl
@[simp] theorem commit_seq (op : BusOp) (s : State) : (commit op s).seq = s.seq := by
  cases op <;> rfl
@[simp] theorem commit_chanHeld (op : BusOp) (s : State) : (commit op s).chanHeld = s.chanHeld := by
  cases op <;> rfl
@[simp] theorem commit_lat (op : BusOp) (s : State) : (commit op s).lat = s.lat := by
  cases op <;> rfl
@[simp] theorem commit_ports (op : BusOp) (s : State) : (commit op s).ports = s.ports := by
  cases op <;> rfl

/-! ### `Ports.afterAcquire` -/

@[simp] theorem Ports.afterAcquire_requests (p : Ports) (b : Bool) : (p.afterAcquire b).requests = p.requests := by
  cases b <;> rfl
@[simp] theorem Ports.afterAcquire_answers (p : Ports) (b : Bool) : (p.afterAcquire b).answers = p.answers := by
  cases b <;> rfl
@[simp] theorem Ports.afterAcquire_answered (p : Ports) (b : Bool) : (p.afterAcquire b).answered = p.answered := by
  cases b <;> rfl
@[simp] theorem Ports.afterAcquire_timer (p : Ports) (b : Bool) : (p.afterAcquire b).timer = p.timer := by
  cases b <;> rfl
@[simp] theorem Ports.afterAcquire_timerAsked (p : Ports) (b : Bool) : (p.afterAcquire b).timerAsked = p.timerAsked := by
  cases b <;> rfl
@[simp] theorem Ports.afterAcquire_trace (p : Ports) (b : Bool) : (p.afterAcquire b).trace = p.trace := by
  cases b <;> rfl

/-! ### What the inputs answer after other inputs were used -/

@[simp] theorem Ports.answer_emit (p : Ports) (e : Event) : (p.emit e).answer = p.answer := rfl
@[simp] theorem Ports.answer_takeChannel (p : Ports) : p.takeChannel.answer = p.answer := rfl
@[simp] theorem Ports.answer_takeTimer (p : Ports) : p.takeTimer.answer = p.answer := rfl
@[simp] theorem Ports.answer_afterAcquire (p : Ports) (b : Bool) : (p.afterAcquire b).answer = p.answer := by
  cases b <;> rfl
@[simp] theorem Ports.takeAnswer_emit (p : Ports) (e : Event) : (p.emit e).takeAnswer = p.takeAnswer.emit e := rfl
@[simp] theorem Ports.takeTimer_emit (p : Ports) (e : Event) : (p.emit e).takeTimer = p.takeTimer.emit e := rfl
@[simp] theorem Ports.takeAnswer_afterAcquire_answer (p : Ports) (b : Bool) :
    (p.afterAcquire b).takeAnswer.answer = p.takeAnswer.answer := by
  cases b <;> rfl
@[simp] theorem Ports.timerDone_emit (p : Ports) (e : Event) : (p.emit e).timerDone = p.timerDone := rfl
@[simp] theorem Ports.timerDone_takeAnswer (p : Ports) : p.takeAnswer.timerDone = p.timerDone := rfl
@[simp] theorem Ports.timerDone_afterAcquire (p : Ports) (b : Bool) : (p.afterAcquire b).timerDone = p.timerDone := by
  cases b <;> rfl

end Sys2Proof.Machine
end

