-- ==== Sys2Proof/Laws/Ops.lean ====
section
/-! SUPPORT. One lemma for each shared operation, which says once everything it can do; the proofs cite these and do not
unfold the operation again. -/

namespace Sys2Proof.Machine

/-! ## The steps of the sequencer -/

theorem seqStep_idle {s : State} (h : s.seq = .idle) : seqStep s = s := by simp [seqStep, h]

theorem seqStep_acq {s : State} (h : s.seq = .acq) : seqStep s = stepAcq s := by simp [seqStep, h]

theorem seqStep_write {s : State} (h : s.seq = .write) : seqStep s = stepWrite s := by simp [seqStep, h]

theorem seqStep_read {s : State} (h : s.seq = .read) : seqStep s = stepRead s := by simp [seqStep, h]

theorem seqStep_rel {s : State} (h : s.seq = .rel) : seqStep s = stepRel s := by simp [seqStep, h]

theorem seqStep_delay {s : State} (h : s.seq = .delay) : seqStep s = stepDelay s := by simp [seqStep, h]

theorem seqStep_resp {s : State} (h : s.seq = .resp) : seqStep s = stepResp s := by simp [seqStep, h]

/-- R77: `ACQ` either takes the channel or is held. -/
theorem stepAcq_cases (s : State) :
    (s.channelGranted = true ∧
      stepAcq s = ({ s.askChannel with chanHeld := true }.emit .acquire).goto .write) ∨
    (s.cfg.sharedChannel = true ∧ s.channelGranted = false ∧ stepAcq s = s.askChannel) := by
  unfold stepAcq
  cases h : s.channelGranted
  · refine .inr ⟨?_, rfl, by simp⟩
    cases hs : s.cfg.sharedChannel
    · simp [State.channelGranted, hs] at h
    · rfl
  · exact .inl ⟨rfl, by simp⟩

/-- R78: where `WRITE` goes. -/
def afterWrite (s : State) : Phase :=
  if s.lat.rlen ≠ 0 ∧ (s.ports.answer.outcome = .success ∨ s.cfg.readAfterFailedWrite) then .read else .rel

theorem stepWrite_eq (s : State) :
    stepWrite s = { s with
      lat := { s.lat with wout := s.ports.answer.outcome }
      seq := afterWrite s
      ports := s.ports.takeAnswer.emit
        (.write (busAddress s.regs.addr) (cmdBytes s.lat.cmd) s.ports.answer.outcome) } := rfl

theorem stepRead_eq (s : State) :
    stepRead s = { s with
      lat := { s.lat with
        rout := classifyRead s.lat.rlen.toNat s.ports.answer, rdata := s.ports.answer.data.take bufLen }
      seq := .rel
      ports := s.ports.takeAnswer.emit
        (.read (busAddress s.regs.addr) s.lat.rlen.toNat s.ports.answer.outcome s.ports.answer.data) } := rfl

/-- R82: `REL` either starts the delay or goes to the response. -/
theorem stepRel_cases (s : State) :
    (hasDelay s.lat.op = true ∧ (s.lat.wout = .success ∨ s.cfg.delayOnFailedWrite = true) ∧
      stepRel s = { s with
        chanHeld := false, seq := .delay, ports := (s.ports.emit .release).emit (.delayStart s.cfg.tDelay) }) ∨
    (¬ (hasDelay s.lat.op = true ∧ (s.lat.wout = .success ∨ s.cfg.delayOnFailedWrite = true)) ∧
      stepRel s = { s with chanHeld := false, seq := .resp, ports := s.ports.emit .release }) := by
  by_cases h : hasDelay s.lat.op = true ∧ (s.lat.wout = .success ∨ s.cfg.delayOnFailedWrite = true)
  · exact .inl ⟨h.1, h.2, by unfold stepRel; rw [if_pos h]; rfl⟩
  · exact .inr ⟨h, by unfold stepRel; rw [if_neg h]; rfl⟩

/-- R86: `DELAY` either ends or is held. -/
theorem stepDelay_cases (s : State) :
    (s.ports.timerDone = true ∧ stepDelay s = { s with seq := .resp, ports := s.ports.takeTimer.emit .delayDone }) ∨
    (s.ports.timerDone = false ∧ stepDelay s = { s with ports := s.ports.takeTimer }) := by
  unfold stepDelay
  cases s.ports.timerDone
  · exact .inr ⟨rfl, rfl⟩
  · exact .inl ⟨rfl, rfl⟩

/-- R87: `RESP` either fails or commits and succeeds. -/
theorem stepResp_cases (s : State) :
    (combined s.lat ≠ .success ∧ stepResp s = fail (resultOf (combined s.lat)) s) ∨
    (combined s.lat = .success ∧
      stepResp s = succeed (payloadOf s.lat.op (commit s.lat.op s).regs) (commit s.lat.op s)) := by
  by_cases h : combined s.lat = .success
  · exact .inr ⟨h, by simp [stepResp, h]⟩
  · exact .inl ⟨h, by simp [stepResp, h]⟩

theorem resultOf_ne_success {o : BusOutcome} (h : o ≠ .success) : resultOf o ≠ .success := by
  cases o <;> simp_all [resultOf]

theorem resultOf_ne_invalidMode (o : BusOutcome) : resultOf o ≠ .invalidMode := by cases o <;> simp [resultOf]

/-! ## The holds -/

/-- D20: the free timer says yes again after every question (weak fairness). -/
theorem freeTimer_fair (n : Nat) : ∃ k, freeTimer (n + k) = true := by
  induction hr : (freeTimerAt n).2 generalizing n with
  | zero => exact ⟨0, by simp [freeTimer, hr]⟩
  | succ r ih =>
    have hn : (freeTimerAt (n + 1)).2 = r := by
      rcases h : freeTimerAt n with ⟨j, m⟩
      simp only [h] at hr
      subst hr
      simp [freeTimerAt, h]
    obtain ⟨k, hk⟩ := ih (n + 1) hn
    exact ⟨k + 1, by rwa [← Nat.add_assoc, Nat.add_right_comm]⟩

/-- The timer runs out, whatever the input says. -/
theorem Ports.timer_fair (p : Ports) : ∃ k, p.timerAnswer k = true := by
  obtain ⟨k, hk⟩ := freeTimer_fair (p.timerAsked + p.timer.length)
  refine ⟨p.timer.length + k, ?_⟩
  rw [Ports.timerAnswer, List.getD_eq_default _ _ (by omega), ← Nat.add_assoc]
  exact hk

theorem Ports.timerAnswer_zero (p : Ports) : p.timerAnswer 0 = p.timerDone := by
  unfold Ports.timerAnswer Ports.timerDone
  cases p.timer <;> rfl

theorem Ports.timerAnswer_succ (p : Ports) (k : Nat) : p.timerAnswer (k + 1) = p.takeTimer.timerAnswer k := by
  unfold Ports.timerAnswer
  cases h : p.timer <;> simp [h, Nat.add_right_comm, Nat.add_assoc]

theorem Ports.channelAnswer_zero (p : Ports) : p.channelAnswer 0 = p.channelFree := by
  unfold Ports.channelAnswer Ports.channelFree
  cases p.channel <;> rfl

theorem Ports.channelAnswer_succ (p : Ports) (k : Nat) : p.channelAnswer (k + 1) = p.takeChannel.channelAnswer k := by
  unfold Ports.channelAnswer
  cases h : p.channel <;> simp [h, Nat.add_right_comm, Nat.add_assoc]

/-! ## The run of the sequencer -/

theorem advance_succ (n : Nat) (s : State) :
    advance (n + 1) s = if (seqStep s).seq = s.seq then seqStep s else advance n (seqStep s) := rfl

/-- The run goes on where the phase changes. -/
theorem advance_of_ne {n : Nat} {s : State} (h : (seqStep s).seq ≠ s.seq) :
    advance (n + 1) s = advance n (seqStep s) := by
  rw [advance_succ, if_neg h]

/-- The run stops where the phase stays: at a hold. -/
theorem advance_of_eq {n : Nat} {s : State} (h : (seqStep s).seq = s.seq) : advance (n + 1) s = seqStep s := by
  rw [advance_succ, if_pos h]

theorem advance_idle {n : Nat} {s : State} (h : s.seq = .idle) : advance n s = s := by
  cases n with
  | zero => rfl
  | succ n => rw [advance_of_eq (by rw [seqStep_idle h]), seqStep_idle h]

/-- What every sequencer step keeps, the run keeps. -/
theorem advance_induction {P : State → Prop} (hP : ∀ s, P s → P (seqStep s)) (n : Nat) {s : State} (h : P s) :
    P (advance n s) := by
  induction n generalizing s with
  | zero => exact h
  | succ n ih =>
    rw [advance_succ]
    split
    · exact hP s h
    · exact ih (hP s h)

/-! ## Acceptance -/

/-- What `whenReady` lets through. -/
theorem whenReady_next {s t : State} {o : Host.Outcome State Fault Refusal} (h : whenReady s o = .next t) :
    s.seq = .idle ∧ s.regs.constructed = true ∧ o = .next t := by
  unfold whenReady at h
  by_cases hi : s.seq = .idle <;> cases hc : s.regs.constructed <;> simp_all

theorem whenReady_of {s : State} (hi : s.seq = .idle) (hc : s.regs.constructed = true)
    (o : Host.Outcome State Fault Refusal) : whenReady s o = o := by
  simp [whenReady, hi, hc]

/-- R75, R76: a bus operation that is accepted fails with `InvalidMode` or is latched. -/
theorem startOperation_next {op : BusOp} {arg : Byte} {s t : State} (h : startOperation op arg s = .next t) :
    s.seq = .idle ∧ s.regs.constructed = true ∧
    ((catalog s.cfg op arg = none ∧ t = fail .invalidMode s) ∨
      ∃ c, catalog s.cfg op arg = some c ∧ t = latchOperation op arg c s) := by
  obtain ⟨hi, hc, h⟩ := whenReady_next h
  refine ⟨hi, hc, ?_⟩
  cases hk : catalog s.cfg op arg with
  | none => exact .inl ⟨rfl, by simpa [hk] using h.symm⟩
  | some c => exact .inr ⟨c, rfl, by simpa [hk] using h.symm⟩

theorem startOperation_some {op : BusOp} {arg : Byte} {s : State} {c : Word16} (hi : s.seq = .idle)
    (hc : s.regs.constructed = true) (hk : catalog s.cfg op arg = some c) :
    startOperation op arg s = .next (latchOperation op arg c s) := by
  simp [startOperation, whenReady_of hi hc, hk]

theorem startOperation_none {op : BusOp} {arg : Byte} {s : State} (hi : s.seq = .idle)
    (hc : s.regs.constructed = true) (hk : catalog s.cfg op arg = none) :
    startOperation op arg s = .next (fail .invalidMode s) := by
  simp [startOperation, whenReady_of hi hc, hk]

theorem runOperation_some {op : BusOp} {arg : Byte} {s : State} {c : Word16} (hi : s.seq = .idle)
    (hc : s.regs.constructed = true) (hk : catalog s.cfg op arg = some c) :
    runOperation op arg s = .next (advance maxSteps (latchOperation op arg c s)) := by
  simp [runOperation, startOperation_some hi hc hk]

/-- Every bus instruction is its operation, run with its mode or operand byte (R90). -/
theorem exec_bus {i : Instr} {op : BusOp} (h : i.op = .bus op) (s : State) : exec i s = runOperation op i.arg s := by
  cases i <;> simp [Instr.op] at h <;> subst h <;> rfl

/-- Every bus instruction of the table has a command word (R64). -/
theorem catalog_of_instr {i : Instr} {op : BusOp} (h : i.op = .bus op) (c : Config) :
    ∃ w, catalog c op i.arg = some w := by
  cases i <;> simp [Instr.op] at h <;> subst h <;> exact ⟨_, rfl⟩

/-- What an instruction that answers a next state has done. -/
theorem exec_next {i : Instr} {s t : State} (h : exec i s = .next t) :
    s.seq = .idle ∧
    ((∃ arg, i = .construct arg ∧ arg.msb = false ∧ t = succeed 0 (construct (addressOperand arg) s)) ∨
    (s.regs.constructed = true ∧
      ((∃ arg, i = .gett arg ∧ t = succeed (gettPayload s.regs) s) ∨
      (∃ arg, i = .getrh arg ∧ t = succeed (getrhPayload s.regs) s) ∨
      ∃ op c, i.op = .bus op ∧ catalog s.cfg op i.arg = some c ∧
        t = advance maxSteps (latchOperation op i.arg c s)))) := by
  have bus : ∀ op, i.op = .bus op → exec i s = .next t → s.seq = .idle ∧ s.regs.constructed = true ∧
      ∃ c, catalog s.cfg op i.arg = some c ∧ t = advance maxSteps (latchOperation op i.arg c s) := by
    intro op ho h
    obtain ⟨c, hk⟩ := catalog_of_instr ho s.cfg
    rw [exec_bus ho, runOperation] at h
    cases hs : startOperation op i.arg s with
    | next u =>
      obtain ⟨hi, hc, hu⟩ := startOperation_next hs
      rw [startOperation_some hi hc hk] at h
      exact ⟨hi, hc, c, hk, by simpa using h.symm⟩
    | fault r => cases r
    | refused r => simp [hs] at h
  cases ho : i.op with
  | bus op =>
    obtain ⟨hi, hc, c, hk, ht⟩ := bus op ho h
    exact ⟨hi, .inr ⟨hc, .inr (.inr ⟨op, c, rfl, hk, ht⟩)⟩⟩
  | construct =>
    cases i <;> simp [Instr.op] at ho
    rename_i arg
    simp only [exec, execConstruct] at h
    by_cases hi : s.seq = .idle <;> cases hm : arg.msb <;> simp [hi, hm] at h
    exact ⟨hi, .inl ⟨arg, rfl, hm, h.symm⟩⟩
  | gett =>
    cases i <;> simp [Instr.op] at ho
    obtain ⟨hi, hc, h⟩ := whenReady_next (by simpa [exec, execGett] using h)
    exact ⟨hi, .inr ⟨hc, .inl ⟨_, rfl, by simpa using h.symm⟩⟩⟩
  | getrh =>
    cases i <;> simp [Instr.op] at ho
    obtain ⟨hi, hc, h⟩ := whenReady_next (by simpa [exec, execGetrh] using h)
    exact ⟨hi, .inr ⟨hc, .inr (.inl ⟨_, rfl, by simpa using h.symm⟩)⟩⟩

/-- In any phase but `IDLE` a step runs the operation in flight on. -/
theorem step_busy {s : State} (h : s.seq ≠ .idle) : step s = .next (advance maxSteps s) := by
  unfold step resume
  cases hs : s.seq <;> simp_all

/-- In `IDLE` a step accepts the next request. -/
theorem step_request {s : State} {w : ReqWord} {rest : List ReqWord} (h : s.seq = .idle)
    (hr : s.ports.requests = w :: rest) : step s = acceptWord w s.takeRequest := by
  simp [step, acceptNext, h, hr]

theorem step_waiting {s : State} (h : s.seq = .idle) (hr : s.ports.requests = []) : step s = .next s := by
  simp [step, acceptNext, h, hr]

/-- An instruction's request word put to the engine is that instruction. -/
theorem acceptWord_ok {w : ReqWord} {i : Instr} (h : decode w = .ok i) (s : State) : acceptWord w s = exec i s := by
  simp [acceptWord, h]

/-- One more step in front of a run. -/
theorem stepRun_succ {n : Nat} {s t : State} (h : step s = .next t) : stepRun (n + 1) s = stepRun n t := by
  simp [stepRun, h]

/-- What a step that answers a next state has done. -/
theorem step_next {s t : State} (h : step s = .next t) :
    (s.seq ≠ .idle ∧ t = advance maxSteps s) ∨
    (s.seq = .idle ∧ s.ports.requests = [] ∧ t = s) ∨
    (s.seq = .idle ∧ ∃ w rest, s.ports.requests = w :: rest ∧
      ((∃ i, decode w = .ok i ∧ exec i s.takeRequest = .next t) ∨
      (∃ op arg, decode w = .error (.invalidMode op arg) ∧ startOperation op arg s.takeRequest = .next t))) := by
  by_cases hi : s.seq = .idle
  · cases hr : s.ports.requests with
    | nil =>
      rw [step_waiting hi hr] at h
      exact .inr (.inl ⟨hi, rfl, by simpa using h.symm⟩)
    | cons w rest =>
      rw [step_request hi hr] at h
      refine .inr (.inr ⟨hi, w, rest, rfl, ?_⟩)
      cases hd : decode w with
      | ok i => exact .inl ⟨i, rfl, by simpa [acceptWord, hd] using h⟩
      | error e =>
        cases e with
        | reservedOp w' => simp [acceptWord, hd] at h
        | reservedAddress a => simp [acceptWord, hd] at h
        | invalidMode op arg => exact .inr ⟨op, arg, rfl, by simpa [acceptWord, hd] using h⟩
  · rw [step_busy hi] at h
    exact .inl ⟨hi, by simpa using h.symm⟩

end Sys2Proof.Machine
end

