-- ==== Sys2Proof/Laws/Run.lean ====
section
/-! SUPPORT. How far a run of the sequencer gets: each phase passed, one lemma, and the bound of R85. -/

namespace Sys2Proof.Machine

theorem readLength_eq (op : BusOp) :
    readLength op = if op = .meas ∨ op = .fetch then 6 else if op = .rdstat then 3 else 0 := by
  cases op <;> rfl

theorem readLength_le (op : BusOp) : (readLength op).toNat ≤ 6 := by cases op <;> decide

theorem hasDelay_iff (op : BusOp) : hasDelay op = true ↔ op = .periodic ∨ op = .art := by cases op <;> decide

theorem rlen_ne_zero_iff (r : BitVec 3) : r ≠ 0 ↔ 0 < r.toNat := by decide +revert

/-- In any phase but `IDLE` a fine step is a step of the sequencer. -/
theorem fineStep_busy {s : State} (h : s.seq ≠ .idle) : fineStep s = .next (seqStep s) := by
  unfold fineStep
  cases hs : s.seq <;> simp_all

/-- How many phases are still ahead (R85: no cycle but through `IDLE`). -/
def Phase.ahead : Phase → Nat
  | .idle => 0
  | .acq => 6
  | .write => 5
  | .read => 4
  | .rel => 3
  | .delay => 2
  | .resp => 1

/-- A sequencer step stays where it is, at a hold or in `IDLE`, or comes nearer to the end. -/
theorem seqStep_ahead (s : State) : (seqStep s).seq = s.seq ∨ (seqStep s).seq.ahead < s.seq.ahead := by
  cases hs : s.seq
  · rw [seqStep_idle hs]; simp [hs]
  · rw [seqStep_acq hs]; rcases stepAcq_cases s with ⟨_, h⟩ | ⟨_, _, h⟩ <;> simp [h, hs, Phase.ahead]
  · rw [seqStep_write hs, stepWrite_eq]; simp only [afterWrite]; split <;> simp [Phase.ahead]
  · rw [seqStep_read hs, stepRead_eq]; simp [Phase.ahead]
  · rw [seqStep_rel hs]; rcases stepRel_cases s with ⟨_, _, h⟩ | ⟨_, h⟩ <;> simp [h, Phase.ahead]
  · rw [seqStep_delay hs]; rcases stepDelay_cases s with ⟨_, h⟩ | ⟨_, h⟩ <;> simp [h, hs, Phase.ahead]
  · rw [seqStep_resp hs]; rcases stepResp_cases s with ⟨_, h⟩ | ⟨_, h⟩ <;> simp [h, Phase.ahead]

/-- More fuel than phases ahead changes nothing. -/
theorem advance_enough (n : Nat) (s : State) (h : s.seq.ahead ≤ n) : advance (n + 1) s = advance n s := by
  induction n generalizing s with
  | zero =>
    have : s.seq = .idle := by revert h; cases s.seq <;> simp [Phase.ahead]
    rw [advance_idle this, advance_idle this]
  | succ n ih =>
    rw [advance_succ (n + 1) s, advance_succ n s]
    split
    · rfl
    · next hne => exact ih _ (by rcases seqStep_ahead s with h1 | h1; exacts [absurd h1 hne, by omega])

theorem advance_acq {n : Nat} {s : State} (h : s.seq = .acq) (hg : s.channelGranted = true) :
    advance (n + 1) s = advance n (({ s.askChannel with chanHeld := true }.emit .acquire).goto .write) := by
  have hs : seqStep s = ({ s.askChannel with chanHeld := true }.emit .acquire).goto .write := by
    rw [seqStep_acq h]
    rcases stepAcq_cases s with ⟨_, h1⟩ | ⟨_, h1, _⟩
    · exact h1
    · simp [hg] at h1
  rw [advance_of_ne (by simp [hs, h]), hs]

theorem advance_write {n : Nat} {s : State} (h : s.seq = .write) : advance (n + 1) s = advance n (stepWrite s) := by
  rw [advance_of_ne, seqStep_write h]
  rw [seqStep_write h, stepWrite_eq, h]
  simp only [afterWrite]
  split <;> simp

theorem advance_read {n : Nat} {s : State} (h : s.seq = .read) : advance (n + 1) s = advance n (stepRead s) := by
  rw [advance_of_ne (by rw [seqStep_read h, stepRead_eq, h]; simp), seqStep_read h]

theorem advance_rel {n : Nat} {s : State} (h : s.seq = .rel) : advance (n + 1) s = advance n (stepRel s) := by
  rw [advance_of_ne, seqStep_rel h]
  rw [seqStep_rel h, h]
  rcases stepRel_cases s with ⟨_, _, h⟩ | ⟨_, h⟩ <;> simp [h]

theorem advance_delay_done {n : Nat} {s : State} (h : s.seq = .delay) (ht : s.ports.timerDone = true) :
    advance (n + 1) s = advance n { s with seq := .resp, ports := s.ports.takeTimer.emit .delayDone } := by
  have hs : seqStep s = { s with seq := .resp, ports := s.ports.takeTimer.emit .delayDone } := by
    rw [seqStep_delay h]
    rcases stepDelay_cases s with ⟨_, h1⟩ | ⟨h1, _⟩
    · exact h1
    · simp [ht] at h1
  rw [advance_of_ne (by simp [hs, h]), hs]

theorem advance_delay_held {n : Nat} {s : State} (h : s.seq = .delay) (ht : s.ports.timerDone = false) :
    advance (n + 1) s = { s with ports := s.ports.takeTimer } := by
  have hs : seqStep s = { s with ports := s.ports.takeTimer } := by
    rw [seqStep_delay h]
    rcases stepDelay_cases s with ⟨h1, _⟩ | ⟨_, h1⟩
    · simp [ht] at h1
    · exact h1
  rw [advance_of_eq (by simp [hs]), hs]

theorem advance_resp {n : Nat} {s : State} (h : s.seq = .resp) : advance (n + 1) s = stepResp s := by
  have hi : (stepResp s).seq = .idle := by rcases stepResp_cases s with ⟨_, h⟩ | ⟨_, h⟩ <;> simp [h]
  rw [advance_of_ne (by rw [seqStep_resp h, hi, h]; simp), seqStep_resp h, advance_idle hi]

/-- A bus instruction on a ready engine is its write step, run on. -/
theorem exec_ready {i : Instr} {op : BusOp} {s : State} (ho : i.op = .bus op) (hr : ReadyFor s) :
    ∃ c, catalog s.cfg op i.arg = some c ∧
      exec i s = .next (advance 5 (stepWrite { s with
        chanHeld := true
        seq := .write
        lat := { s.lat with op := op, arg := i.arg, cmd := c, rlen := readLength op }
        ports := (s.ports.afterAcquire s.cfg.sharedChannel).emit .acquire })) := by
  obtain ⟨hi, hc, hg⟩ := hr
  obtain ⟨c, hk⟩ := catalog_of_instr ho s.cfg
  refine ⟨c, hk, ?_⟩
  rw [exec_bus ho, runOperation_some hi hc hk, maxSteps,
    advance_acq (by simp) (by simpa [State.channelGranted] using hg), advance_write (by simp)]
  simp [State.emit, State.goto]

/-- R87, R91: `RESP` ends with exactly one response. -/
theorem stepResp_responds (s : State) :
    ∃ r p, (stepResp s).seq = .idle ∧ (stepResp s).ports.trace = s.ports.trace ++ [.response r p] := by
  rcases stepResp_cases s with ⟨_, e⟩ | ⟨_, e⟩ <;> rw [e]
  · exact ⟨_, _, rfl, rfl⟩
  · exact ⟨_, _, rfl, by simp only [succeed, State.emit, State.goto, Ports.emit, commit_ports]; rfl⟩

/-- What a run of the sequencer from `s` comes to (R91): the end, with one response; a hold in `DELAY`, with none; or the
hold in `ACQ` it began in. -/
def RunOutcome (s t : State) : Prop :=
  (t.seq = .idle ∧ ∃ es, t.ports.trace = s.ports.trace ++ es ∧ EndsWithOneResponse es) ∨
  (t.seq = .delay ∧ ∃ es, t.ports.trace = s.ports.trace ++ es ∧ ∀ e ∈ es, e.isResponse = false) ∨
  (s.seq = .acq ∧ s.cfg.sharedChannel = true ∧ s.ports.channelFree = false ∧
    t = { s with ports := s.ports.takeChannel })

/-- Events without a response may come in front. -/
theorem RunOutcome.after {s u t : State} {es : List Event} (h : u.ports.trace = s.ports.trace ++ es)
    (hn : ∀ e ∈ es, e.isResponse = false) (hu : u.seq ≠ .acq) (ho : RunOutcome u t) : RunOutcome s t := by
  have both : ∀ fs : List Event, (∀ e ∈ fs, e.isResponse = false) → ∀ e ∈ es ++ fs, e.isResponse = false :=
    fun fs hf e he => (List.mem_append.1 he).elim (hn e) (hf e)
  rcases ho with ⟨hi, fs, hf, c, r, p, hc, hr⟩ | ⟨hd, fs, hf, hr⟩ | ⟨ha, _⟩
  · exact .inl ⟨hi, es ++ fs, by rw [hf, h]; simp, es ++ c, r, p, by simp [hc], both c hr⟩
  · exact .inr (.inl ⟨hd, es ++ fs, by rw [hf, h]; simp, both fs hr⟩)
  · exact absurd ha hu

/-- R91, said once: from any phase but `IDLE`, with fuel for the phases ahead. -/
theorem advance_outcome (n : Nat) (s : State) (hs : s.seq ≠ .idle) (hn : s.seq.ahead ≤ n) :
    RunOutcome s (advance n s) := by
  induction n generalizing s with
  | zero => revert hn hs; cases s.seq <;> simp [Phase.ahead]
  | succ n ih =>
    cases hq : s.seq
    · exact absurd hq hs
    · cases hg : s.channelGranted
      · have hsh : s.cfg.sharedChannel = true ∧ s.ports.channelFree = false := by
          simpa [State.channelGranted] using hg
        have hst : seqStep s = { s with ports := s.ports.takeChannel } := by
          rw [seqStep_acq hq]; simp [stepAcq, hg, State.askChannel, hsh.1]
        rw [advance_of_eq (by rw [hst]), hst]
        exact .inr (.inr ⟨hq, hsh.1, hsh.2, rfl⟩)
      · rw [advance_acq hq hg]
        refine RunOutcome.after (es := [.acquire]) ?_ (by simp [Event.isResponse]) (by simp) (ih _ (by simp) ?_)
        · simp only [State.goto, State.emit, State.askChannel, Ports.emit]; split <;> rfl
        · simp [hq, Phase.ahead] at hn ⊢; omega
    · rw [advance_write hq]
      refine RunOutcome.after (es := [_]) (by rw [stepWrite_eq]; rfl) (by simp [Event.isResponse]) ?_ (ih _ ?_ ?_)
      all_goals rw [stepWrite_eq]; simp only [afterWrite]; split <;> simp [hq, Phase.ahead] at hn ⊢ <;> omega
    · rw [advance_read hq]
      refine RunOutcome.after (es := [_]) (by rw [stepRead_eq]; rfl) (by simp [Event.isResponse]) ?_ (ih _ ?_ ?_)
      all_goals rw [stepRead_eq]; simp [hq, Phase.ahead] at hn ⊢ <;> omega
    · have ha : ∀ u : State, u.seq.ahead ≤ 2 → u.seq.ahead ≤ n := by
        intro u hu; simp [hq, Phase.ahead] at hn; omega
      rw [advance_rel hq]
      rcases stepRel_cases s with ⟨_, _, h⟩ | ⟨_, h⟩ <;> rw [h]
      · exact RunOutcome.after (es := [_, _]) (by simp [Ports.emit]; exact ⟨rfl, rfl⟩) (by simp [Event.isResponse])
          (by simp) (ih _ (by simp) (ha _ (by simp [Phase.ahead])))
      · exact RunOutcome.after (es := [_]) (by simp [Ports.emit]; rfl) (by simp [Event.isResponse]) (by simp)
          (ih _ (by simp) (ha _ (by simp [Phase.ahead])))
    · cases ht : s.ports.timerDone
      · rw [advance_delay_held hq ht]
        exact .inr (.inl ⟨hq, [], by simp [Ports.takeTimer], by simp⟩)
      · rw [advance_delay_done hq ht]
        exact RunOutcome.after (es := [_]) (by simp [Ports.emit, Ports.takeTimer]; rfl) (by simp [Event.isResponse])
          (by simp) (ih _ (by simp) (by simp [hq, Phase.ahead] at hn ⊢; omega))
    · rw [advance_resp hq]
      obtain ⟨r, p, hi, ht⟩ := stepResp_responds s
      exact .inl ⟨hi, [_], ht, [], r, p, rfl, by simp⟩

end Sys2Proof.Machine
end

