-- ==== Sys2Proof/Tests/Slice0.lean ====
section
/-! SUPPORT. Tests on small states: one step each, the expected values from spec/95_test_vectors.md and the opcode table.
Then a witness for every statement that has hypotheses. -/

namespace Sys2Proof.Machine.Tests

/-- The constructed engine at 0x44 with a transport script and a timer that has run out. -/
def ready (script : List Answer) : State :=
  { State.reset with ports := { Ports.empty with answers := script, timer := [true] } }

/-- The transport answers an outcome and no bytes. -/
def ans (o : BusOutcome) : Answer := ⟨o, []⟩

/-- The transport answers `Success` with these bytes. -/
def reply (d : List Byte) : Answer := ⟨.success, d⟩

/-- The next state, if there is one. -/
def after (o : Host.Outcome State Fault Refusal) : Option State :=
  match o with
  | .next t => some t
  | .fault _ => none
  | .refused _ => none

/-- The refusal, if there is one. -/
def refusal (o : Host.Outcome State Fault Refusal) : Option Refusal :=
  match o with
  | .next _ => none
  | .fault _ => none
  | .refused r => some r

/-- The reading and the events after an instruction. -/
def reading (i : Instr) (s : State) : Option (Int × Nat × List Event) :=
  (after (exec i s)).map fun t => (t.regs.tempNum.toInt, t.regs.rhNum.toNat, t.ports.trace)

/-- The status registers and the events after an instruction. -/
def statusAfter (i : Instr) (s : State) : Option (Word16 × Bool × List Event) :=
  (after (exec i s)).map fun t => (t.regs.status, t.regs.heaterOn, t.ports.trace)

/-- Whether the registers are as before, and the events. -/
def kept (i : Instr) (s : State) : Option (Bool × List Event) :=
  (after (exec i s)).map fun t => (decide (t.regs = s.regs), t.ports.trace)

/-! ## Well-formedness: the one check refuses -/

theorem test_wellFormed_refuses_address_0x80 : (Instr.construct 0x80).wellFormed = false := by decide
theorem test_wellFormed_admits_address_0x7F : (Instr.construct 0x7F).wellFormed = true := by decide

/-! ## Decoding: every row's word, from its match and mask (R72), and V-E -/

theorem test_decode_construct :
    decode 0b000000000000#12 = .ok (.construct 0x00) ∧
    decode 0b000001000100#12 = .ok (.construct 0x44) ∧
    decode 0b000001111111#12 = .ok (.construct 0x7F) := by
  decide

theorem test_decode_meas :
    decode 0b000100000001#12 = .ok .meas1 ∧
    decode 0b000100000010#12 = .ok .meas2 ∧
    decode 0b000100000011#12 = .ok .meas3 ∧
    decode 0b000100000100#12 = .ok .meas4 ∧
    decode 0b000100000101#12 = .ok .meas5 ∧
    decode 0b000100000110#12 = .ok .meas6 := by
  decide

theorem test_decode_periodic :
    decode 0b001000000001#12 = .ok .periodic1 ∧
    decode 0b001000000010#12 = .ok .periodic2 ∧
    decode 0b001000000011#12 = .ok .periodic3 ∧
    decode 0b001000000100#12 = .ok .periodic4 ∧
    decode 0b001000000101#12 = .ok .periodic5 ∧
    decode 0b001000000110#12 = .ok .periodic6 ∧
    decode 0b001000000111#12 = .ok .periodic7 ∧
    decode 0b001000001000#12 = .ok .periodic8 ∧
    decode 0b001000001001#12 = .ok .periodic9 ∧
    decode 0b001000001010#12 = .ok .periodic10 ∧
    decode 0b001000001011#12 = .ok .periodic11 ∧
    decode 0b001000001100#12 = .ok .periodic12 ∧
    decode 0b001000001101#12 = .ok .periodic13 ∧
    decode 0b001000001110#12 = .ok .periodic14 ∧
    decode 0b001000001111#12 = .ok .periodic15 := by
  decide

theorem test_decode_fixed :
    decode 0b001110100101#12 = .ok (.fetch 0xA5) ∧
    decode 0b010011111111#12 = .ok (.brk 0xFF) ∧
    decode 0b010100000000#12 = .ok (.sreset 0x00) ∧
    decode 0b011000000000#12 = .ok (.rdstat 0x00) ∧
    decode 0b011100000000#12 = .ok (.clrstat 0x00) ∧
    decode 0b100000000000#12 = .ok (.heaton 0x00) ∧
    decode 0b100100000000#12 = .ok (.heatoff 0x00) ∧
    decode 0b101000000000#12 = .ok (.art 0x00) ∧
    decode 0b101100000001#12 = .ok (.gett 0x01) ∧
    decode 0b110000000000#12 = .ok (.getrh 0x00) := by
  decide

/-- V-E: the words that are no row of the table. -/
theorem test_decode_rejects :
    decode 0x080 = .error (.reservedAddress 0x80) ∧ decode 0x0FF = .error (.reservedAddress 0xFF) ∧
    decode 0x100 = .error (.invalidMode .meas 0) ∧ decode 0x107 = .error (.invalidMode .meas 7) ∧
    decode 0x1FF = .error (.invalidMode .meas 255) ∧ decode 0x200 = .error (.invalidMode .periodic 0) ∧
    decode 0x210 = .error (.invalidMode .periodic 16) ∧ decode 0xD00 = .error (.reservedOp 0xD00) ∧
    decode 0xFFF = .error (.reservedOp 0xFFF) := by
  decide

/-- R69: `MEAS 1`, `CONSTRUCT 0x44`, `FETCH`. -/
theorem test_assemble :
    assemble (.bus .meas) (some 1) = some 0x101 ∧ assemble .construct (some 0x44) = some 0x044 ∧
    assemble (.bus .fetch) none = some 0x300 := by
  decide

theorem test_tableWord : decodeTableWord 16 0x20F = some .periodic15 ∧ decodeTableWord 16 0x1000 = none := by decide

/-! ## The words the host reads -/

/-- V-E2. -/
theorem test_responseWord :
    responseWord .success 0 = 0x0000000 ∧ responseWord .success (BitVec.ofInt 25 1589200) = 0x0183FD0 ∧
    responseWord .success (BitVec.ofInt 25 (-2949075)) = 0x1D3002D ∧
    responseWord .success (BitVec.ofInt 25 (-150)) = 0x1FFFF6A ∧
    responseWord .success (statusPayload true 0x2010) = 0x0012010 ∧
    responseWord .payloadTooLong 0 = 0x2000000 ∧ responseWord .addressNack 0 = 0x4000000 ∧
    responseWord .dataNack 0 = 0x6000000 ∧ responseWord .otherError 0 = 0x8000000 ∧
    responseWord .timeout 0 = 0xA000000 ∧ responseWord .noDataAvailable 0 = 0xC000000 ∧
    responseWord .invalidMode 0 = 0xE000000 := by
  decide

/-- V-R4 to V-R10: one named bit each, and none. -/
theorem test_statusFlags :
    statusFlags 0x8000 = ⟨true, false, false, false, false, false, false⟩ ∧
    statusFlags 0x2000 = ⟨false, true, false, false, false, false, false⟩ ∧
    statusFlags 0x0800 = ⟨false, false, true, false, false, false, false⟩ ∧
    statusFlags 0x0400 = ⟨false, false, false, true, false, false, false⟩ ∧
    statusFlags 0x0010 = ⟨false, false, false, false, true, false, false⟩ ∧
    statusFlags 0x0002 = ⟨false, false, false, false, false, true, false⟩ ∧
    statusFlags 0x0001 = ⟨false, false, false, false, false, false, true⟩ ∧
    statusFlags 0x53EC = ⟨false, false, false, false, false, false, false⟩ := by
  decide

/-! ## The converter and the floating view: V-C -/

theorem test_conv_temperature :
    [0, 1, 255, 256, 16851, 16852, 25933, 26061, 26214, 32767, 32768, 65534, 65535].map tempNumerator =
    [-2949075, -2948900, -2904450, -2904275, -150, 25, 1589200, 1611600, 1638375, 2785150, 2785325,
      8519375, 8519550] := by
  decide

theorem test_conv_humidity :
    [0, 1, 177, 32767, 32768, 34116, 65534, 65535].map rhNumerator =
    [0, 100, 17700, 3276700, 3276800, 3411600, 6553400, 6553500] := by
  decide

theorem test_floatT_binary32 :
    ([-2949075, -2948900, -2904450, -2904275, -150, 25, 1589200, 1611600, 1638375, 2785150, 2785325,
      8519375, 8519550].map fun n => (floatT .binary32 n).toNat) =
    [0xC2340000, 0xC233FD44, 0xC23146B9, 0xC23143FD, 0xBB160000, 0x39C80000, 0x41C1FF40, 0x41C4BB44,
      0x41C80000, 0x4229FEA2, 0x422A015E, 0x4301FF51, 0x43020000] := by
  decide

theorem test_floatT_binary64 :
    ([-2949075, -2948900, -2904450, -2904275, -150, 25, 1589200, 1611600, 1638375, 2785150, 2785325,
      8519375, 8519550].map fun n => (floatT .binary64 n).toNat) =
    [0xC046800000000000, 0xC0467FA87FA87FA8, 0xC04628D728D728D7, 0xC046287FA87FA880, 0xBF62C012C012C000,
      0x3F390019001A0000, 0x40383FE83FE83FE8, 0x4038976897689768, 0x4039000000000000, 0x40453FD43FD43FD4,
      0x4045402BC02BC02C, 0x40603FEA1FEA1FEA, 0x4060400000000000] := by
  decide

theorem test_floatRH_binary32 :
    ([0, 100, 17700, 3276700, 3276800, 3411600, 6553400, 6553500].map fun n => (floatRH .binary32 n).toNat) =
    [0x00000000, 0x3AC800C8, 0x3E8A488A, 0x4247FF38, 0x424800C8, 0x42503B10, 0x42C7FF38, 0x42C80000] := by
  decide

theorem test_floatRH_binary64 :
    ([0, 100, 17700, 3276700, 3276800, 3411600, 6553400, 6553500].map fun n => (floatRH .binary64 n).toNat) =
    [0x0000000000000000, 0x3F59001900190019, 0x3FD1491149114911, 0x4048FFE6FFE6FFE7, 0x4049001900190019,
      0x404A076207620762, 0x4058FFE6FFE6FFE7, 0x4059000000000000] := by
  decide

/-- R136 in binary16, by hand: 175 and 0 are its numbers, 65535 and 175 * 1000 overflow (IEEE 754), and -45 is 0xD1A0. -/
theorem test_floatT_binary16 :
    (floatT .binary16 (-2949075)).toNat = 0xD1A0 ∧ (floatT .binary16 (-2948900)).toNat = 0xD1A0 ∧
    floatTValue .binary16 (175 * 1000 - 2949075) = .nan ∧ rn .binary16 (.ofInt 65535) = .infinity false := by
  decide

/-- 25 in binary128. -/
theorem test_floatT_binary128 : (floatT .binary128 1638375).toNat = 0x4003 * 2 ^ 112 + 9 * 2 ^ 108 := by decide

/-- R10, R136: a numerator that is no image of a raw word: `raw` is the exact quotient 2949076 / 175. -/
theorem test_floatT_exact_quotient :
    (rawOfTempNum 1).scale 175 = ⟨175 * 2949076, 175⟩ ∧
    floatTValue .binary32 1 =
      .add .binary32 (.finite ⟨-45, 1⟩) (.div .binary32 (.finite ⟨2949076, 1⟩) (.finite ⟨65535, 1⟩)) := by
  decide

/-! ## Measurement: V-M -/

/-- V-M1, V-S7. -/
theorem test_meas1_V_M1 : reading .meas1 (ready [ans .success, reply [0x65, 0x4D, 0x00, 0x85, 0x44, 0xB1]]) =
    some (1589200, 3411600, [.acquire, .write 0x44 [0x2C, 0x06] .success, .read 0x44 6 .success [0x65, 0x4D, 0x00, 0x85, 0x44, 0xB1], .release, .response .success 0]) := by
  decide

/-- V-M2. -/
theorem test_meas2_V_M2 : reading .meas2 (ready [ans .success, reply [0x00, 0x00, 0x81, 0x00, 0x00, 0x81]]) =
    some (-2949075, 0, [.acquire, .write 0x44 [0x2C, 0x0D] .success, .read 0x44 6 .success [0x00, 0x00, 0x81, 0x00, 0x00, 0x81], .release, .response .success 0]) := by
  decide

/-- V-M3. -/
theorem test_meas3_V_M3 : reading .meas3 (ready [ans .success, reply [0xFF, 0xFF, 0xAC, 0xFF, 0xFF, 0xAC]]) =
    some (8519550, 6553500, [.acquire, .write 0x44 [0x2C, 0x10] .success, .read 0x44 6 .success [0xFF, 0xFF, 0xAC, 0xFF, 0xFF, 0xAC], .release, .response .success 0]) := by
  decide

/-- V-M4: no data. -/
theorem test_meas4_V_M4 : kept .meas4 (ready [ans .success, ans .noDataAvailable]) =
    some (true, [.acquire, .write 0x44 [0x24, 0x00] .success, .read 0x44 6 .noDataAvailable [], .release, .response .noDataAvailable 0]) := by
  decide

/-- V-M5: a failed write is not followed by a read. -/
theorem test_meas5_V_M5 : kept .meas5 (ready [ans .dataNack]) =
    some (true, [.acquire, .write 0x44 [0x24, 0x0B] .dataNack, .release, .response .dataNack 0]) := by
  decide

/-- V-M6. -/
theorem test_meas6_V_M6 : reading .meas6 (ready [ans .success, reply [0x66, 0x66, 0x00, 0x80, 0x00, 0x00]]) =
    some (1638375, 3276800, [.acquire, .write 0x44 [0x24, 0x16] .success, .read 0x44 6 .success [0x66, 0x66, 0x00, 0x80, 0x00, 0x00], .release, .response .success 0]) := by
  decide

/-- V-M7. -/
theorem test_fetch_V_M7 : reading (.fetch 0) (ready [ans .success, reply [0x65, 0xCD, 0x00, 0x85, 0x44, 0x00]]) =
    some (1611600, 3411600, [.acquire, .write 0x44 [0xE0, 0x00] .success, .read 0x44 6 .success [0x65, 0xCD, 0x00, 0x85, 0x44, 0x00], .release, .response .success 0]) := by
  decide

/-- V-M10: five bytes of six. -/
theorem test_meas1_V_M10 : kept .meas1 (ready [ans .success, reply [0x65, 0x4D, 0x00, 0x85, 0x44]]) =
    some (true, [.acquire, .write 0x44 [0x2C, 0x06] .success, .read 0x44 6 .success [0x65, 0x4D, 0x00, 0x85, 0x44], .release,
      .response .noDataAvailable 0]) := by
  decide

/-- V-M11: `READ_AFTER_FAILED_WRITE`. -/
theorem test_readAfterFailedWrite_V_M11 :
    kept .meas1
      { ready [ans .addressNack, reply [0x65, 0x4D, 0x00, 0x85, 0x44, 0xB1]] with
        cfg := { Config.default with readAfterFailedWrite := true } } =
    some (true, [.acquire, .write 0x44 [0x2C, 0x06] .addressNack, .read 0x44 6 .success [0x65, 0x4D, 0x00, 0x85, 0x44, 0xB1], .release,
      .response .addressNack 0]) := by
  decide

/-- V-M12, V-S5: `MEAS 7`. -/
theorem test_step_meas7_V_M12 :
    (after (step ((ready []).withFetchWord 16 0x107))).map (fun t => (t.seq, t.ports.trace, decide (t.regs = State.reset.regs))) =
    some (.idle, [.response .invalidMode 0], true) := by
  decide

/-! ## Write-only: V-W and the examples of R105 to R125 -/

theorem test_periodic1_R105 : kept .periodic1 (ready [ans .success]) =
    some (true, [.acquire, .write 0x44 [0x20, 0x32] .success, .release, .delayStart 10, .delayDone, .response .success 0]) := by
  decide

theorem test_periodic2_R106 : kept .periodic2 (ready [ans .success]) =
    some (true, [.acquire, .write 0x44 [0x20, 0x24] .success, .release, .delayStart 10, .delayDone, .response .success 0]) := by
  decide

theorem test_periodic3_R107 : kept .periodic3 (ready [ans .addressNack]) =
    some (true, [.acquire, .write 0x44 [0x20, 0x2F] .addressNack, .release, .delayStart 10, .delayDone, .response .addressNack 0]) := by
  decide

theorem test_periodic4_R108 : kept .periodic4 (ready [ans .success]) =
    some (true, [.acquire, .write 0x44 [0x21, 0x30] .success, .release, .delayStart 10, .delayDone, .response .success 0]) := by
  decide

theorem test_periodic5_R109 : kept .periodic5 (ready [ans .timeout]) =
    some (true, [.acquire, .write 0x44 [0x21, 0x26] .timeout, .release, .delayStart 10, .delayDone, .response .timeout 0]) := by
  decide

theorem test_periodic6_R110 : kept .periodic6 (ready [ans .success]) =
    some (true, [.acquire, .write 0x44 [0x21, 0x2D] .success, .release, .delayStart 10, .delayDone, .response .success 0]) := by
  decide

theorem test_periodic7_R111 : kept .periodic7 (ready [ans .success]) =
    some (true, [.acquire, .write 0x44 [0x22, 0x36] .success, .release, .delayStart 10, .delayDone, .response .success 0]) := by
  decide

theorem test_periodic8_R112 : kept .periodic8 (ready [ans .dataNack]) =
    some (true, [.acquire, .write 0x44 [0x22, 0x20] .dataNack, .release, .delayStart 10, .delayDone, .response .dataNack 0]) := by
  decide

theorem test_periodic9_R113 : kept .periodic9 (ready [ans .success]) =
    some (true, [.acquire, .write 0x44 [0x22, 0x2B] .success, .release, .delayStart 10, .delayDone, .response .success 0]) := by
  decide

theorem test_periodic10_R114 : kept .periodic10 (ready [ans .success]) =
    some (true, [.acquire, .write 0x44 [0x23, 0x34] .success, .release, .delayStart 10, .delayDone, .response .success 0]) := by
  decide

theorem test_periodic11_R115 : kept .periodic11 (ready [ans .otherError]) =
    some (true, [.acquire, .write 0x44 [0x23, 0x22] .otherError, .release, .delayStart 10, .delayDone, .response .otherError 0]) := by
  decide

theorem test_periodic12_R116 : kept .periodic12 (ready [ans .success]) =
    some (true, [.acquire, .write 0x44 [0x23, 0x29] .success, .release, .delayStart 10, .delayDone, .response .success 0]) := by
  decide

theorem test_periodic13_R117 : kept .periodic13 (ready [ans .success]) =
    some (true, [.acquire, .write 0x44 [0x23, 0x37] .success, .release, .delayStart 10, .delayDone, .response .success 0]) := by
  decide

theorem test_periodic14_R118 : kept .periodic14 (ready [ans .payloadTooLong]) =
    some (true, [.acquire, .write 0x44 [0x23, 0x21] .payloadTooLong, .release, .delayStart 10, .delayDone, .response .payloadTooLong 0]) := by
  decide

theorem test_periodic15_R119 : kept .periodic15 (ready [ans .success]) =
    some (true, [.acquire, .write 0x44 [0x23, 0x2A] .success, .release, .delayStart 10, .delayDone, .response .success 0]) := by
  decide

theorem test_art_V_W13 : kept (.art 0) (ready [ans .success]) =
    some (true, [.acquire, .write 0x44 [0x2B, 0x32] .success, .release, .delayStart 10, .delayDone, .response .success 0]) := by
  decide

/-- V-W5: `DELAY_ON_FAILED_WRITE` false. -/
theorem test_noDelayOnFailedWrite_V_W5 :
    kept .periodic7 { ready [ans .addressNack] with cfg := { Config.default with delayOnFailedWrite := false } } =
    some (true, [.acquire, .write 0x44 [0x22, 0x36] .addressNack, .release, .response .addressNack 0]) := by
  decide

/-- V-W6: `PERIODIC 0`, no delay. -/
theorem test_step_periodic0_V_W6 :
    (after (step ((ready []).withFetchWord 16 0x200))).map (fun t => (t.seq, t.ports.trace)) =
    some (.idle, [.response .invalidMode 0]) := by
  decide

theorem test_brk_V_W8 : kept (.brk 0) (ready [ans .success]) =
    some (true, [.acquire, .write 0x44 [0x30, 0x93] .success, .release, .response .success 0]) := by
  decide

theorem test_brk_V_W14 : kept (.brk 0) (ready [ans .payloadTooLong]) =
    some (true, [.acquire, .write 0x44 [0x30, 0x93] .payloadTooLong, .release, .response .payloadTooLong 0]) := by
  decide

theorem test_sreset_V_W9 : kept (.sreset 0) (ready [ans .success]) =
    some (true, [.acquire, .write 0x44 [0x30, 0xA2] .success, .release, .response .success 0]) := by
  decide

theorem test_sreset_V_W15 : kept (.sreset 0) (ready [ans .noDataAvailable]) =
    some (true, [.acquire, .write 0x44 [0x30, 0xA2] .noDataAvailable, .release, .response .noDataAvailable 0]) := by
  decide

/-- A ready engine with status registers of its own. -/
def readyStatus (w : Word16) (h : Bool) (script : List Answer) : State :=
  { ready script with regs := { State.reset.regs with status := w, heaterOn := h } }

/-- V-W10: the cache is not cleared. -/
theorem test_clrstat_V_W10 : statusAfter (.clrstat 0) (readyStatus 0x8010 false [ans .success]) =
    some (0x8010, false, [.acquire, .write 0x44 [0x30, 0x41] .success, .release, .response .success 0]) := by
  decide

/-- V-W11: the heater flag is not inferred. -/
theorem test_heaton_V_W11 : statusAfter (.heaton 0) (readyStatus 0 false [ans .success]) =
    some (0, false, [.acquire, .write 0x44 [0x30, 0x6D] .success, .release, .response .success 0]) := by
  decide

/-- V-W12, R124. -/
theorem test_heatoff_V_W12 : statusAfter (.heatoff 0) (readyStatus 0x2000 true [ans .addressNack]) =
    some (0x2000, true, [.acquire, .write 0x44 [0x30, 0x66] .addressNack, .release, .response .addressNack 0]) := by
  decide

/-! ## Status read: V-R, V-S6 -/

/-- V-R1. -/
theorem test_rdstat_V_R1 : statusAfter (.rdstat 0) (ready [ans .success, reply [0x20, 0x10, 0x5A]]) =
    some (0x2010, true, [.acquire, .write 0x44 [0xF3, 0x2D] .success, .read 0x44 3 .success [0x20, 0x10, 0x5A], .release,
      .response .success 0x12010]) := by
  decide

/-- V-S6. -/
theorem test_rdstat_V_S6 : statusAfter (.rdstat 0) (readyStatus 0x2010 true [ans .addressNack]) =
    some (0x2010, true, [.acquire, .write 0x44 [0xF3, 0x2D] .addressNack, .release, .response .addressNack 0]) := by
  decide

/-! ## CONSTRUCT and the accessors: V-A -/

/-- V-A1, V-A7: from power-on, and again over a reading and a status. -/
theorem test_construct_V_A1 :
    (after (exec (.construct 0x44) State.powerOn)).map (fun t => (t.regs, t.ports.trace)) =
    some (⟨0x44, ⟨0, 0, 0, 0, 0, 0⟩, 0, 0, 0, false, true⟩, [.response .success 0]) := by
  decide

theorem test_construct_V_A7 :
    (after (exec (.construct 0x45) (readyStatus 0x2010 true []))).map (·.regs) =
    some ⟨0x45, ⟨0, 0, 0, 0, 0, 0⟩, 0, 0, 0, false, true⟩ := by
  decide

/-- A ready engine with a reading. -/
def readyReading (t : Int) (h : Nat) : State :=
  { ready [] with regs := { State.reset.regs with tempNum := BitVec.ofInt 25 t, rhNum := BitVec.ofNat 23 h } }

/-- V-A6: the payload is two's complement. -/
theorem test_gett_V_A6 : kept (.gett 0) (readyReading (-2949075) 0) =
    some (true, [.response .success 0x1D3002D]) := by
  decide

/-- V-A5. -/
theorem test_getrh_V_A5 : kept (.getrh 0) (readyReading 1589200 3411600) =
    some (true, [.response .success 0x0340E90]) := by
  decide

/-- V-A8: GETT at power-on is refused. -/
theorem test_gett_V_A8 : refusal (exec (.gett 0) State.powerOn) = some .notConstructed := by decide

/-- V-A9: a reserved word is refused. -/
theorem test_step_V_A9 : refusal (step ((ready []).withFetchWord 16 0x080)) = some (.reservedRequest 0x080) := by decide

/-! ## Holds -/

/-- R86: the delay not over. -/
theorem test_delay_held :
    (after (exec .periodic1 { ready [] with ports := { Ports.empty with answers := [ans .success], timer := [false] } })).map
      (fun t => (t.seq, t.chanHeld, t.ports.trace)) =
    some (.delay, false, [.acquire, .write 0x44 [0x20, 0x32] .success, .release, .delayStart 10]) := by
  decide

/-- A ready engine on a shared channel that another master has. -/
def sharedBusy : State :=
  { State.reset with
    cfg := { Config.default with sharedChannel := true }
    ports := { Ports.empty with channel := [false] } }

/-- R77: held, not failed. -/
theorem test_acquire_held :
    (after (exec .meas1 sharedBusy)).map (fun t => (t.seq, t.chanHeld, t.lat.cmd, t.ports.trace)) =
    some (.acq, false, 0x2C06, []) := by
  decide

/-! ## Witnesses: states and operands that meet a statement's hypotheses together -/

/-- MEAS.1 in flight, at its write. -/
def inFlight (q : Phase) (script : List Answer) : State :=
  { ready script with
    seq := q
    chanHeld := q.holdsChannel
    lat := { Latches.zero with op := .meas, arg := 1, cmd := 0x2C06, rlen := 6 } }

/-- PERIODIC.1 in flight. -/
def delaying (q : Phase) (timer : List Bool) : State :=
  { State.reset with
    seq := q
    chanHeld := q.holdsChannel
    lat := { Latches.zero with op := .periodic, arg := 1, cmd := 0x2032 }
    ports := { Ports.empty with timer := timer } }

/-- An idle engine with these requests ahead. -/
def asked (ws : List ReqWord) (s : State) : State := { s with ports := { s.ports with requests := ws } }

theorem readyFor_ready (script : List Answer) : ReadyFor (ready script) := ⟨rfl, rfl, rfl⟩

theorem engineInv_inFlight (script : List Answer) : EngineInv (inFlight .write script) where
  channel := rfl
  reading := .inl ⟨rfl, rfl, rfl⟩
  heater := show false = (0#16).getLsbD 13 by decide
  latched := fun _ => ⟨rfl, rfl, rfl⟩
  fits := ⟨fun h => by simp [inFlight] at h, fun h => by simp [inFlight] at h⟩
  reply := fun h => by simp [inFlight] at h
  room := Nat.zero_le 6

theorem witness_DecodeInvertsEncode : WellFormed (.construct 0x7F) ∧ WellFormed (.fetch 0xFF) := by decide

theorem witness_EncodeInvertsDecode : decode 0x3A5 = .ok (.fetch 0xA5) ∧ decode 0x07F = .ok (.construct 0x7F) := by decide

theorem witness_ReservedWordsRefused :
    (asked [0xD00] (ready [])).seq = .idle ∧ (asked [0xD00] (ready [])).ports.requests = [0xD00] ∧
    13 ≤ (0xD00#12).toNat / 256 ∧ 13 ≤ (0xFFF#12).toNat / 256 ∧
    ((0x080#12).toNat / 256 = 0 ∧ 128 ≤ (0x080#12).toNat % 256) ∧
    ((0x0FF#12).toNat / 256 = 0 ∧ 128 ≤ (0x0FF#12).toNat % 256) := by
  decide

theorem witness_InvalidModeFailsAtOnce :
    (asked [0x107] (ready [])).seq = .idle ∧ (asked [0x107] (ready [])).regs.constructed = true ∧
    (asked [0x107] (ready [])).ports.requests = [0x107] ∧
    ((0x100#12).toNat / 256 = 1 ∧ ¬ (1 ≤ (0x100#12).toNat % 256 ∧ (0x100#12).toNat % 256 ≤ 6)) ∧
    ((0x107#12).toNat / 256 = 1 ∧ ¬ (1 ≤ (0x107#12).toNat % 256 ∧ (0x107#12).toNat % 256 ≤ 6)) ∧
    ((0x200#12).toNat / 256 = 2 ∧ ¬ (1 ≤ (0x200#12).toNat % 256 ∧ (0x200#12).toNat % 256 ≤ 15)) ∧
    ((0x210#12).toNat / 256 = 2 ∧ ¬ (1 ≤ (0x210#12).toNat % 256 ∧ (0x210#12).toNat % 256 ≤ 15)) := by
  decide

/-- The second clause: an `InvalidMode` response that went out before. -/
theorem witness_InvalidModeFailsAtOnce_earlier :
    ∃ t, exec (.gett 0) ((ready []).emit (.response .invalidMode 0)) = .next t ∧
      .response .invalidMode 0 ∈ t.ports.trace :=
  ⟨_, rfl, by decide⟩

theorem witness_StepRunsDecodedRequest :
    (asked [0x101, 0xB00] (ready [])).seq = .idle ∧
    (asked [0x101, 0xB00] (ready [])).ports.requests = 0x101 :: [0xB00] ∧ decode 0x101 = .ok .meas1 := by
  decide

theorem witness_IdleEngineWaits : (ready []).seq = .idle ∧ (ready []).ports.requests = [] := by decide

theorem witness_UnconstructedEngineRefuses :
    State.powerOn.seq = .idle ∧ State.powerOn.regs.constructed = false ∧ Instr.op .meas1 ≠ .construct ∧
    (asked [0x100] State.powerOn).ports.requests = [0x100] ∧ 256 ≤ (0x100#12).toNat ∧ (0x07F#12).toNat < 128 := by
  decide

theorem witness_BusyEngineTakesNoRequest : (inFlight .write []).seq ≠ .idle := by decide

theorem witness_LatchingStep :
    (asked [0x3A5] (ready [])).seq = .idle ∧ (asked [0x3A5] (ready [])).regs.constructed = true ∧
    (asked [0x3A5] (ready [])).ports.requests = [0x3A5] ∧ decode 0x3A5 = .ok (.fetch 0xA5) ∧
    (Instr.fetch 0xA5).op = .bus .fetch := by
  decide

theorem witness_LatchingStep_command :
    ∃ t, fineStep (asked [0x101] (ready [])) = .next t ∧ t.lat.cmd ≠ (asked [0x101] (ready [])).lat.cmd :=
  ⟨_, rfl, by decide⟩

theorem witness_AcquireStep :
    (inFlight .acq []).seq = .acq ∧ (inFlight .acq []).cfg.sharedChannel = false ∧
    ({ sharedBusy with seq := .acq } : State).seq = .acq ∧ sharedBusy.cfg.sharedChannel = true ∧
    sharedBusy.ports.channelFree = false ∧ ({ sharedBusy.ports with channel := [true] } : Ports).channelFree = true := by
  decide

theorem witness_WriteStep : (inFlight .write []).seq = .write := by decide

theorem witness_ReadStep : (inFlight .read []).seq = .read := by decide

theorem witness_ReleaseStep :
    (delaying .rel []).seq = .rel ∧
    (((delaying .rel []).lat.op = .periodic ∨ (delaying .rel []).lat.op = .art) ∧
      ((delaying .rel []).lat.wout = .success ∨ (delaying .rel []).cfg.delayOnFailedWrite = true)) ∧
    (inFlight .rel []).seq = .rel ∧
    ¬ (((inFlight .rel []).lat.op = .periodic ∨ (inFlight .rel []).lat.op = .art) ∧
      ((inFlight .rel []).lat.wout = .success ∨ (inFlight .rel []).cfg.delayOnFailedWrite = true)) := by
  decide

theorem witness_DelayPhase :
    (delaying .delay [true]).seq = .delay ∧ (delaying .delay [true]).ports.timerDone = true ∧
    (delaying .delay [false]).ports.timerDone = false := by
  decide

theorem witness_CombinedOutcome :
    ({ Latches.zero with wout := .timeout } : Latches).wout ≠ .success ∧
    Latches.zero.wout = .success ∧ Latches.zero.rlen = 0 ∧ 0 < ({ Latches.zero with rlen := 6 } : Latches).rlen.toNat := by
  decide

theorem witness_ResponseStep :
    (inFlight .resp []).seq = .resp ∧ combined (inFlight .resp []).lat = .success ∧
    (inFlight .resp []).lat.op = .meas ∧
    combined { (inFlight .resp []).lat with rout := .timeout } ≠ .success ∧
    combined { (inFlight .resp []).lat with op := .rdstat } = .success ∧
    combined (delaying .resp []).lat = .success ∧ (delaying .resp []).lat.op ≠ .meas ∧
    (delaying .resp []).lat.op ≠ .fetch ∧ (delaying .resp []).lat.op ≠ .rdstat := by
  decide

theorem witness_SequencerFollowsTable (q : Phase) : ∃ t, fineStep (inFlight q []) = .next t := by
  cases q <;> exact ⟨_, rfl⟩

theorem witness_LatchedOperationGoesOn :
    ∃ m, (asked [0x101] (ready [])).seq = .idle ∧ fineStep (asked [0x101] (ready [])) = .next m ∧ m.seq = .acq :=
  ⟨_, rfl, rfl, rfl⟩

theorem witness_StepRespondsOrIsHeld :
    (∃ t, step (asked [0x101] (ready [])) = .next t ∧ (asked [0x101] (ready [])).ports.requests ≠ []) ∧
    (∃ t, step (inFlight .write []) = .next t ∧ (inFlight .write []).seq ≠ .idle) :=
  ⟨⟨_, rfl, by decide⟩, ⟨_, rfl, by decide⟩⟩

theorem witness_ConstructStoresAddress :
    State.powerOn.seq = .idle ∧ (ready []).seq = .idle ∧ (0x7F#8).toNat < 128 ∧ (0x00#8).toNat < 128 := by
  decide

theorem witness_ConstructRefusesEightBitAddress : State.powerOn.seq = .idle ∧ 128 ≤ (0x80#8).toNat := by decide

theorem witness_GettAnswersTemperature : (ready []).seq = .idle ∧ (ready []).regs.constructed = true := by decide

theorem witness_GetrhAnswersHumidity :
    (readyReading 1589200 3411600).seq = .idle ∧ (readyReading 1589200 3411600).regs.constructed = true := by
  decide

theorem witness_MeasurementCommitsReply :
    Instr.op .meas1 = .bus .meas ∧ (Instr.fetch 0).op = .bus .fetch ∧
    ReadyFor (ready [ans .success, reply [0x65, 0x4D, 0x00, 0x85, 0x44, 0xB1]]) ∧
    (ready [ans .success, reply [0x65, 0x4D, 0x00, 0x85, 0x44, 0xB1]]).writeOutcome = .success ∧
    (ready [ans .success, reply [0x65, 0x4D, 0x00, 0x85, 0x44, 0xB1]]).readAnswer =
      ⟨.success, [0x65, 0x4D, 0x00, 0x85, 0x44, 0xB1]⟩ :=
  ⟨rfl, rfl, readyFor_ready _, rfl, rfl⟩

theorem witness_RdstatCommitsReply :
    ReadyFor (ready [ans .success, reply [0x20, 0x10, 0x5A]]) ∧
    (ready [ans .success, reply [0x20, 0x10, 0x5A]]).writeOutcome = .success ∧
    (ready [ans .success, reply [0x20, 0x10, 0x5A]]).readAnswer = ⟨.success, [0x20, 0x10, 0x5A]⟩ :=
  ⟨readyFor_ready _, rfl, rfl⟩

theorem witness_WriteOnlyReportsOutcome :
    Instr.op .periodic1 = .bus .periodic ∧ (Instr.brk 0).op = .bus .brk ∧ ReadyFor (ready [ans .timeout]) ∧
    (ready [ans .timeout]).cfg.delayOnFailedWrite = true ∧ (ready [ans .timeout]).ports.timerDone = true ∧
    ¬ ((BusOp.brk = .periodic ∨ BusOp.brk = .art) ∧
      ((ready [ans .timeout]).writeOutcome = .success ∨ (ready [ans .timeout]).cfg.delayOnFailedWrite = true)) :=
  ⟨rfl, rfl, readyFor_ready _, rfl, rfl, by decide⟩

theorem witness_DelayedOperationIsHeld :
    (Instr.art 0).op = .bus .art ∧ ReadyFor { ready [ans .success] with ports := (delaying .delay [false]).ports } ∧
    (ready [ans .success]).cfg.delayOnFailedWrite = true ∧ (delaying .delay [false]).ports.timerDone = false :=
  ⟨rfl, ⟨rfl, rfl, rfl⟩, rfl, rfl⟩

theorem witness_DelayEndsWithWriteOutcome :
    (delaying .delay [true]).seq = .delay ∧ (delaying .delay [true]).lat.op = .periodic ∧
    (delaying .delay [true]).lat.rlen = 0 ∧ (delaying .delay [true]).ports.timerDone = true ∧
    (delaying .delay [false]).ports.timerDone = false := by
  decide

theorem witness_SharedChannelHoldsOperation :
    Instr.op .meas1 = .bus .meas ∧ sharedBusy.seq = .idle ∧ sharedBusy.regs.constructed = true ∧
    sharedBusy.cfg.sharedChannel = true ∧ sharedBusy.ports.channelFree = false := by
  decide

theorem witness_FailedWriteSkipsRead :
    (Instr.rdstat 0).op = .bus .rdstat ∧ ReadyFor (ready [ans .addressNack]) ∧
    (ready [ans .addressNack]).writeOutcome ≠ .success ∧ (ready [ans .addressNack]).cfg.readAfterFailedWrite = false :=
  ⟨rfl, readyFor_ready _, by decide, rfl⟩

theorem witness_FailedWriteOutranksRead :
    Instr.op .meas1 = .bus .meas ∧
    ReadyFor { ready [ans .addressNack] with cfg := { Config.default with readAfterFailedWrite := true } } ∧
    (ready [ans .addressNack]).writeOutcome ≠ .success :=
  ⟨rfl, ⟨rfl, rfl, rfl⟩, by decide⟩

theorem witness_FailedReadFailsOperation :
    ReadyFor (ready [ans .success, ans .noDataAvailable]) ∧
    (ready [ans .success, ans .noDataAvailable]).writeOutcome = .success ∧
    (ready [ans .success, ans .noDataAvailable]).readAnswer.outcome ≠ .success ∧
    (ready [ans .success, reply [0x20, 0x10]]).readAnswer.data.length ≠ 3 :=
  ⟨readyFor_ready _, rfl, by decide, by decide⟩

theorem witness_BusInstructionFrames :
    (∃ t, exec (.heaton 0) (ready [ans .success]) = .next t) ∧ (∃ t, exec .meas1 (ready [ans .success]) = .next t) ∧
    (∃ t, exec (.rdstat 0) (ready [ans .success]) = .next t) :=
  ⟨⟨_, rfl⟩, ⟨_, rfl⟩, ⟨_, rfl⟩⟩

theorem witness_FailureKeepsRegisters :
    ∃ t es, step (inFlight .write [ans .timeout]) = .next t ∧
      t.ports.trace = (inFlight .write [ans .timeout]).ports.trace ++ es ++ [.response .timeout 0] ∧
      Result.timeout ≠ .success :=
  ⟨_, [.write 0x44 [0x2C, 0x06] .timeout, .release], rfl, by decide, by decide⟩

theorem witness_OnlyConstructWritesAddress :
    ∃ t, step (asked [0x045] (ready [])) = .next t ∧ t.regs.addr ≠ (asked [0x045] (ready [])).regs.addr :=
  ⟨_, rfl, by decide⟩

theorem witness_StatusOnlyFromRdstat :
    (∃ t, step (asked [0x600] (ready [ans .success, reply [0x20, 0x10, 0x5A]])) = .next t ∧
      t.regs.status ≠ (ready []).regs.status) ∧
    (∃ t, step (asked [0x044] (readyStatus 0x2010 true [])) = .next t ∧
      t.regs.heaterOn ≠ (readyStatus 0x2010 true []).regs.heaterOn) :=
  ⟨⟨_, rfl, by decide⟩, ⟨_, rfl, by decide⟩⟩

theorem witness_ParametersNeverChange : ∃ t, step (inFlight .write []) = .next t := ⟨_, rfl⟩

theorem witness_StepKeepsInvariant :
    EngineInv (inFlight .write [ans .success]) ∧ ∃ t, step (inFlight .write [ans .success]) = .next t :=
  ⟨engineInv_inFlight _, _, rfl⟩

theorem witness_SequencerStepKeepsInvariant :
    EngineInv (inFlight .write [ans .success]) ∧ ∃ t, fineStep (inFlight .write [ans .success]) = .next t :=
  ⟨engineInv_inFlight _, _, rfl⟩

theorem witness_WritesCarryCatalogWords :
    EngineInv (inFlight .write [ans .timeout]) ∧
    ∃ t es, step (inFlight .write [ans .timeout]) = .next t ∧
      t.ports.trace = (inFlight .write [ans .timeout]).ports.trace ++ es ∧
      .write 0x44 [0x2C, 0x06] .timeout ∈ es :=
  ⟨engineInv_inFlight _,
    _, [.write 0x44 [0x2C, 0x06] .timeout, .release, .response .timeout 0], rfl, by decide, by decide⟩

theorem witness_OneTransactionPerInstruction :
    (∃ i t, exec i (ready [ans .success, ans .timeout]) = .next t) ∧
    (∃ t, step (inFlight .acq [ans .success]) = .next t ∧ (inFlight .acq [ans .success]).seq = .acq) :=
  ⟨⟨.meas1, _, rfl⟩, _, rfl, rfl⟩

theorem witness_ConverterIsInvertible :
    convTemp ⟨1, 2, 3, 4, 5, 6⟩ = convTemp ⟨1, 2, 0, 4, 5, 0⟩ ∧ convRh ⟨1, 2, 3, 4, 5, 6⟩ = convRh ⟨1, 2, 0, 4, 5, 0⟩ := by
  decide

theorem witness_FloatViewExactValues : 24 ≤ FpFormat.binary32.precision ∧ 8 ≤ FpFormat.binary32.expBits := by decide

theorem witness_DelayEventuallyEnds : (delaying .delay []).seq = .delay := rfl

/-- A hold in `ACQ` that the second answer lifts, and an instruction that meets it. -/
theorem witness_AcceptedOperationResponds :
    (let s : State := { sharedBusy with ports := { sharedBusy.ports with channel := [false, true] } }
     ChannelFair s ∧ (∃ t, exec .meas1 s = .next t) ∧
     ({ s with seq := .acq } : State).seq ≠ .idle ∧ ChannelFair { s with seq := .acq }) :=
  ⟨fun _ => ⟨1, rfl⟩, ⟨_, rfl⟩, by decide, fun _ => ⟨1, rfl⟩⟩

theorem witness_RoundingIsHalfEven : roundHalfEven 5 2 = 2 ∧ roundHalfEven 7 2 = 4 := by decide

theorem witness_TraceIsOnlyAnOutput : ∃ t, step (inFlight .write [ans .success]) = .next t := ⟨_, rfl⟩

end Sys2Proof.Machine.Tests
end

section
/-! What a step that answers a next state comes to, said once for `step` and once for `fineStep`: an acceptance, then steps
of the sequencer.  The proofs about every step go through these lemmas. -/

namespace Sys2Proof.Machine

/-- A mode has a single-shot command word exactly where it has a single-shot instruction (R57 a, R64). -/
theorem catalogSingleShot_isSome (c : Config) (m : Nat) : (catalogSingleShot c m).isSome = (measOfMode m).isSome := by
  unfold measOfMode
  split
  case h_7 => unfold catalogSingleShot; split <;> simp_all
  all_goals rfl

/-- A mode has a periodic command word exactly where it has a periodic instruction (R57 a, R64). -/
theorem catalogPeriodic_isSome (c : Config) (m : Nat) : (catalogPeriodic c m).isSome = (periodicOfMode m).isSome := by
  unfold periodicOfMode
  split
  case h_16 => unfold catalogPeriodic; split <;> simp_all
  all_goals rfl

theorem orInvalidMode_error {op : BusOp} {arg : Byte} {o : Option Instr} {e : DecodeError}
    (h : orInvalidMode op arg o = .error e) : o = none ∧ e = .invalidMode op arg := by
  cases o <;> simp_all [orInvalidMode]

/-- R57 a, R67 c: a word is decoded to `InvalidMode` only where the catalog has no command word. -/
theorem catalog_of_invalidMode {w : ReqWord} {op : BusOp} {arg : Byte} (h : decode w = .error (.invalidMode op arg))
    (c : Config) : catalog c op arg = none := by
  have hop : ∀ o : Op, decodeOperand o (argField w) = .error (.invalidMode op arg) → catalog c op arg = none := by
    intro o ho
    unfold decodeOperand at ho
    split at ho
    case h_1 => split at ho <;> simp at ho
    case h_2 =>
      obtain ⟨hm, he⟩ := orInvalidMode_error ho
      cases he
      simpa [hm, catalog] using catalogSingleShot_isSome c (argField w).toNat
    case h_3 =>
      obtain ⟨hm, he⟩ := orInvalidMode_error ho
      cases he
      simpa [hm, catalog] using catalogPeriodic_isSome c (argField w).toNat
    all_goals cases ho
  unfold decode at h
  split at h
  · exact hop _ h
  · cases h

/-- What the acceptance of the next request leaves (R75): a new lifetime, a response at once, or a latched bus operation. -/
inductive Accepted (s : State) : State → Prop
  | construct {w : ReqWord} {rest : List ReqWord} {arg : Byte} (idle : s.seq = .idle)
      (request : s.ports.requests = w :: rest) (decoded : decode w = .ok (.construct arg)) :
      Accepted s (succeed 0 (construct (addressOperand arg) s.takeRequest))
  | answered (r : Result) (p : Payload) (idle : s.seq = .idle) (constructed : s.regs.constructed = true) :
      Accepted s ((s.takeRequest.emit (.response r p)).goto .idle)
  | latched {op : BusOp} {arg : Byte} {c : Word16} (idle : s.seq = .idle) (constructed : s.regs.constructed = true)
      (word : catalog s.cfg op arg = some c) : Accepted s (latchOperation op arg c s.takeRequest)

theorem Accepted.of_startOperation {op : BusOp} {arg : Byte} {s t : State}
    (h : startOperation op arg s.takeRequest = .next t) : Accepted s t := by
  obtain ⟨hi, hc, ⟨_, rfl⟩ | ⟨c, hk, rfl⟩⟩ := startOperation_next h
  · exact .answered .invalidMode 0 hi hc
  · exact .latched hi hc hk

/-- An instruction is its acceptance, then a run of the sequencer. -/
theorem exec_takeRequest {i : Instr} {w : ReqWord} {rest : List ReqWord} {s t : State}
    (hr : s.ports.requests = w :: rest) (hd : decode w = .ok i) (h : exec i s.takeRequest = .next t) :
    ∃ u, Accepted s u ∧ t = advance maxSteps u := by
  obtain ⟨hi, ⟨arg, rfl, _, rfl⟩ | ⟨hc, ⟨_, _, rfl⟩ | ⟨_, _, rfl⟩ | ⟨op, c, _, hk, rfl⟩⟩⟩ := exec_next h
  · exact ⟨_, .construct hi hr hd, (advance_idle rfl).symm⟩
  · exact ⟨_, .answered .success _ hi hc, (advance_idle rfl).symm⟩
  · exact ⟨_, .answered .success _ hi hc, (advance_idle rfl).symm⟩
  · exact ⟨_, .latched hi hc hk, rfl⟩

/-- A step runs the sequencer from its own state, or from what it has accepted. -/
theorem step_runs {s t : State} (h : step s = .next t) : ∃ u, (u = s ∨ Accepted s u) ∧ t = advance maxSteps u := by
  obtain ⟨_, rfl⟩ | ⟨hi, _, rfl⟩ | ⟨hi, w, rest, hr, ⟨i, hd, he⟩ | ⟨op, arg, hd, he⟩⟩ := step_next h
  · exact ⟨s, .inl rfl, rfl⟩
  · exact ⟨t, .inl rfl, (advance_idle hi).symm⟩
  · obtain ⟨u, hu, rfl⟩ := exec_takeRequest hr hd he
    exact ⟨u, .inr hu, rfl⟩
  · obtain ⟨_, _, ⟨_, rfl⟩ | ⟨c, hk, _⟩⟩ := startOperation_next he
    · exact ⟨_, .inr (.of_startOperation he), (advance_idle rfl).symm⟩
    · simp [catalog_of_invalidMode hd] at hk

/-- An instruction's first step alone is its acceptance. -/
theorem startInstr_takeRequest {i : Instr} {w : ReqWord} {rest : List ReqWord} {s t : State}
    (hr : s.ports.requests = w :: rest) (hd : decode w = .ok i) (h : startInstr i s.takeRequest = .next t) :
    Accepted s t := by
  unfold startInstr at h
  cases ho : i.op with
  | bus op => exact .of_startOperation (by simpa [ho] using h)
  | construct | gett | getrh =>
    obtain ⟨hi, ⟨arg, rfl, _, rfl⟩ | ⟨hc, ⟨_, _, rfl⟩ | ⟨_, _, rfl⟩ | ⟨op, c, hb, _⟩⟩⟩ :=
      exec_next (by simpa [ho] using h)
    · exact .construct hi hr hd
    · exact .answered .success _ hi hc
    · exact .answered .success _ hi hc
    · simp [ho] at hb

/-- A fine step is one step of the sequencer, or an acceptance. -/
theorem fineStep_next {s t : State} (h : fineStep s = .next t) : t = seqStep s ∨ Accepted s t := by
  by_cases hi : s.seq = .idle
  · cases hr : s.ports.requests with
    | nil => exact .inl (by simpa [fineStep, hi, hr, seqStep_idle] using h.symm)
    | cons w rest =>
      have ha : fineAcceptWord w s.takeRequest = .next t := by simpa [fineStep, hi, hr] using h
      unfold fineAcceptWord at ha
      split at ha
      case h_1 i hd => exact .inr (startInstr_takeRequest hr hd ha)
      case h_2 => exact .inr (.of_startOperation ha)
      all_goals cases ha
  · rw [fineStep_busy hi] at h
    exact .inl (by simpa using h.symm)

/-- What acceptance and every sequencer step keep, every step keeps. -/
theorem step_induction {P : State → Prop} (accept : ∀ s u, P s → Accepted s u → P u) (sequence : ∀ s, P s → P (seqStep s))
    {s t : State} (hs : P s) (h : step s = .next t) : P t := by
  obtain ⟨u, rfl | hu, rfl⟩ := step_runs h
  · exact advance_induction sequence _ hs
  · exact advance_induction sequence _ (accept s u hs hu)

/-- The same of every fine step. -/
theorem fineStep_induction {P : State → Prop} (accept : ∀ s u, P s → Accepted s u → P u)
    (sequence : ∀ s, P s → P (seqStep s)) {s t : State} (hs : P s) (h : fineStep s = .next t) : P t := by
  obtain rfl | hu := fineStep_next h
  · exact sequence s hs
  · exact accept s t hs hu

end Sys2Proof.Machine
end

section
/-! What the sequencer carries on unchanged through a transaction, and the one step that writes a register: a commit in
`RESP` (R29, R87). -/

namespace Sys2Proof.Machine

/-- `t` is later in the operation of `s`, with no register written in between. -/
structure Onward (s t : State) : Prop where
  cfg : t.cfg = s.cfg
  regs : t.regs = s.regs
  op : t.lat.op = s.lat.op
  arg : t.lat.arg = s.lat.arg
  cmd : t.lat.cmd = s.lat.cmd
  rlen : t.lat.rlen = s.lat.rlen
  requests : t.ports.requests = s.ports.requests
  trace : ∃ es, t.ports.trace = s.ports.trace ++ es

theorem Onward.refl (s : State) : Onward s s := ⟨rfl, rfl, rfl, rfl, rfl, rfl, rfl, [], by simp⟩

theorem Onward.trans {s t u : State} (h : Onward s t) (k : Onward t u) : Onward s u where
  cfg := k.cfg.trans h.cfg
  regs := k.regs.trans h.regs
  op := k.op.trans h.op
  arg := k.arg.trans h.arg
  cmd := k.cmd.trans h.cmd
  rlen := k.rlen.trans h.rlen
  requests := k.requests.trans h.requests
  trace := by
    obtain ⟨es, he⟩ := h.trace
    obtain ⟨fs, hf⟩ := k.trace
    exact ⟨es ++ fs, by rw [hf, he, List.append_assoc]⟩

theorem stepAcq_onward (s : State) : Onward s (stepAcq s) := by
  obtain ⟨_, h⟩ | ⟨_, _, h⟩ := stepAcq_cases s <;> rw [h]
  · exact ⟨by simp, by simp, by simp, by simp, by simp, by simp, by simp, [.acquire], by simp⟩
  · exact ⟨by simp, by simp, by simp, by simp, by simp, by simp, by simp, [], by simp⟩

theorem stepWrite_onward (s : State) : Onward s (stepWrite s) := ⟨rfl, rfl, rfl, rfl, rfl, rfl, rfl, [_], rfl⟩

theorem stepRead_onward (s : State) : Onward s (stepRead s) := ⟨rfl, rfl, rfl, rfl, rfl, rfl, rfl, [_], rfl⟩

theorem stepRel_onward (s : State) : Onward s (stepRel s) := by
  obtain ⟨_, _, h⟩ | ⟨_, h⟩ := stepRel_cases s <;> rw [h]
  · exact ⟨rfl, rfl, rfl, rfl, rfl, rfl, rfl, [.release, .delayStart s.cfg.tDelay], by simp⟩
  · exact ⟨rfl, rfl, rfl, rfl, rfl, rfl, rfl, [.release], rfl⟩

theorem stepDelay_onward (s : State) : Onward s (stepDelay s) := by
  obtain ⟨_, h⟩ | ⟨_, h⟩ := stepDelay_cases s <;> rw [h]
  · exact ⟨rfl, rfl, rfl, rfl, rfl, rfl, rfl, [.delayDone], rfl⟩
  · exact ⟨rfl, rfl, rfl, rfl, rfl, rfl, rfl, [], by simp⟩

theorem fail_onward (r : Result) (s : State) : Onward s (fail r s) := ⟨rfl, rfl, rfl, rfl, rfl, rfl, rfl, [_], rfl⟩

/-- The end of an operation whose combined outcome is `Success` (R87, R88). -/
def commitAndSucceed (s : State) : State := succeed (payloadOf s.lat.op (commit s.lat.op s).regs) (commit s.lat.op s)

/-- A step of the sequencer goes on with the operation, or commits it in `RESP`. -/
theorem seqStep_cases (s : State) :
    Onward s (seqStep s) ∨ (s.seq = .resp ∧ combined s.lat = .success ∧ seqStep s = commitAndSucceed s) := by
  cases hs : s.seq with
  | idle => rw [seqStep_idle hs]; exact .inl (.refl s)
  | acq => rw [seqStep_acq hs]; exact .inl (stepAcq_onward s)
  | write => rw [seqStep_write hs]; exact .inl (stepWrite_onward s)
  | read => rw [seqStep_read hs]; exact .inl (stepRead_onward s)
  | rel => rw [seqStep_rel hs]; exact .inl (stepRel_onward s)
  | delay => rw [seqStep_delay hs]; exact .inl (stepDelay_onward s)
  | resp =>
    rw [seqStep_resp hs]
    obtain ⟨_, h⟩ | ⟨hc, h⟩ := stepResp_cases s
    · exact .inl (h ▸ fail_onward _ s)
    · exact .inr ⟨rfl, hc, h⟩

/-- A run of the sequencer goes on with the operation, and at its end may commit it. -/
theorem advance_cases (n : Nat) (s : State) :
    Onward s (advance n s) ∨ ∃ v, Onward s v ∧ advance n s = commitAndSucceed v := by
  refine advance_induction (P := fun t => Onward s t ∨ ∃ v, Onward s v ∧ t = commitAndSucceed v) ?_ n (.inl (.refl s))
  rintro t (ht | ⟨v, hv, rfl⟩)
  · obtain h | ⟨_, _, h⟩ := seqStep_cases t
    · exact .inl (ht.trans h)
    · exact .inr ⟨t, ht, h⟩
  · exact .inr ⟨v, hv, seqStep_idle rfl⟩

/-! ### What a commit writes -/

/-- The three kinds of operation by their commit step (R87, R90). -/
theorem commit_cases (op : BusOp) (s : State) :
    commit op s = s ∨ ((op = .meas ∨ op = .fetch) ∧ commit op s = commitMeasurement s) ∨
      (op = .rdstat ∧ commit op s = commitStatus s) := by
  cases op <;> simp [commit]

@[simp] theorem commit_addr (op : BusOp) (s : State) : (commit op s).regs.addr = s.regs.addr := by
  obtain h | ⟨_, h⟩ | ⟨_, h⟩ := commit_cases op s <;> simp [h]

@[simp] theorem commit_constructed (op : BusOp) (s : State) : (commit op s).regs.constructed = s.regs.constructed := by
  obtain h | ⟨_, h⟩ | ⟨_, h⟩ := commit_cases op s <;> simp [h]

theorem commit_reading {op : BusOp} (hm : op ≠ .meas) (hf : op ≠ .fetch) (s : State) :
    (commit op s).regs.buf = s.regs.buf ∧ (commit op s).regs.tempNum = s.regs.tempNum ∧
      (commit op s).regs.rhNum = s.regs.rhNum := by
  obtain h | ⟨ho, _⟩ | ⟨_, h⟩ := commit_cases op s
  · simp [h]
  · simp [hm, hf] at ho
  · simp [h]

theorem commit_status {op : BusOp} (hr : op ≠ .rdstat) (s : State) :
    (commit op s).regs.status = s.regs.status ∧ (commit op s).regs.heaterOn = s.regs.heaterOn := by
  obtain h | ⟨_, h⟩ | ⟨ho, _⟩ := commit_cases op s
  · simp [h]
  · simp [h]
  · exact absurd ho hr

/-! ### The end of a committed operation -/

@[simp] theorem commitAndSucceed_cfg (s : State) : (commitAndSucceed s).cfg = s.cfg := by simp [commitAndSucceed]

@[simp] theorem commitAndSucceed_regs (s : State) : (commitAndSucceed s).regs = (commit s.lat.op s).regs := rfl

@[simp] theorem commitAndSucceed_seq (s : State) : (commitAndSucceed s).seq = .idle := rfl

@[simp] theorem commitAndSucceed_chanHeld (s : State) : (commitAndSucceed s).chanHeld = s.chanHeld := by
  simp [commitAndSucceed]

@[simp] theorem commitAndSucceed_lat (s : State) : (commitAndSucceed s).lat = s.lat := by simp [commitAndSucceed]

@[simp] theorem commitAndSucceed_ports (s : State) :
    (commitAndSucceed s).ports =
      s.ports.emit (.response .success (payloadOf s.lat.op (commit s.lat.op s).regs)) := by
  simp [commitAndSucceed]

/-! ### What a run of the sequencer keeps -/

@[simp] theorem seqStep_cfg (s : State) : (seqStep s).cfg = s.cfg := by
  obtain h | ⟨_, _, h⟩ := seqStep_cases s
  · exact h.cfg
  · simp [h]

@[simp] theorem advance_cfg (n : Nat) (s : State) : (advance n s).cfg = s.cfg :=
  advance_induction (P := fun t => t.cfg = s.cfg) (fun t ht => by simpa using ht) n rfl

@[simp] theorem advance_addr (n : Nat) (s : State) : (advance n s).regs.addr = s.regs.addr := by
  obtain h | ⟨v, hv, h⟩ := advance_cases n s
  · rw [h.regs]
  · simp [h, hv.regs]

@[simp] theorem advance_constructed (n : Nat) (s : State) : (advance n s).regs.constructed = s.regs.constructed := by
  obtain h | ⟨v, hv, h⟩ := advance_cases n s
  · rw [h.regs]
  · simp [h, hv.regs]

@[simp] theorem advance_requests (n : Nat) (s : State) : (advance n s).ports.requests = s.ports.requests := by
  obtain h | ⟨v, hv, h⟩ := advance_cases n s
  · exact h.requests
  · simp [h, hv.requests]

theorem advance_reading {s : State} (hm : s.lat.op ≠ .meas) (hf : s.lat.op ≠ .fetch) (n : Nat) :
    (advance n s).regs.buf = s.regs.buf ∧ (advance n s).regs.tempNum = s.regs.tempNum ∧
      (advance n s).regs.rhNum = s.regs.rhNum := by
  obtain h | ⟨v, hv, h⟩ := advance_cases n s
  · simp [h.regs]
  · rw [h, commitAndSucceed_regs, ← hv.regs]
    exact commit_reading (hv.op ▸ hm) (hv.op ▸ hf) v

/-- Where a run of the sequencer changes the status registers, it commits an RDSTAT (R87, R127). -/
theorem advance_status_cases (n : Nat) (s : State) :
    ((advance n s).regs.status = s.regs.status ∧ (advance n s).regs.heaterOn = s.regs.heaterOn) ∨
      ∃ v, Onward s v ∧ v.lat.op = .rdstat ∧ advance n s = commitAndSucceed v := by
  obtain h | ⟨v, hv, h⟩ := advance_cases n s
  · simp [h.regs]
  · by_cases hr : v.lat.op = .rdstat
    · exact .inr ⟨v, hv, hr, h⟩
    · rw [h, commitAndSucceed_regs, ← hv.regs]
      exact .inl (commit_status hr v)

end Sys2Proof.Machine
end

section
/-! The registers a step can write, and the parameters it cannot (R14, R17, R18, R25, R29). -/

namespace Sys2Proof.Machine

/-- Settles O9, by the law of a waiting step. -/
theorem idleEngineWaits : Obligations.IdleEngineWaits := fun _ => step_waiting

theorem Accepted.cfg {s u : State} (h : Accepted s u) : u.cfg = s.cfg := by cases h <;> rfl

/-- Settles O41: acceptance and every sequencer step keep the parameters. -/
theorem parametersNeverChange : Obligations.ParametersNeverChange := by
  intro s t h
  refine step_induction (P := fun u => u.cfg = s.cfg) (fun u v hu ha => ?_) (fun u hu => ?_) rfl h
  · rw [ha.cfg, hu]
  · rw [seqStep_cfg, hu]

/-- Settles O37: a bus instruction is latched, which writes no register, and then runs the sequencer, whose one write is the
commit of its operation. -/
theorem busInstructionFrames : Obligations.BusInstructionFrames := by
  intro i op s t ho h
  obtain ⟨_, ⟨_, rfl, _⟩ | ⟨_, ⟨_, rfl, _⟩ | ⟨_, rfl, _⟩ | ⟨op', c, ho', _, rfl⟩⟩⟩ := exec_next h
  case inl | inr.inl | inr.inr.inl => cases ho
  obtain rfl : op' = op := by simpa [ho'] using ho
  refine ⟨by simp, by simp, by simp, by simp, fun hm hf => ?_, fun hr => ?_⟩
  · exact advance_reading (s := latchOperation op' i.arg c s) hm hf maxSteps
  · obtain hk | ⟨v, hv, hop, _⟩ := advance_status_cases maxSteps (latchOperation op' i.arg c s)
    · exact hk
    · exact absurd (hv.op.symm.trans hop) hr

theorem addressOperand_eq (arg : Byte) : addressOperand arg = arg.setWidth 7 :=
  BitVec.setWidth_eq_extractLsb' (by decide) |>.symm

/-- Of the acceptances only CONSTRUCT writes a register (R140, R155). -/
theorem Accepted.regs_cases {s u : State} (h : Accepted s u) :
    u.regs = s.regs ∨ ∃ w rest arg, s.seq = .idle ∧ s.ports.requests = w :: rest ∧ decode w = .ok (.construct arg) ∧
      u.regs = Regs.afterConstruct (addressOperand arg) := by
  cases h with
  | construct hi hr hd => exact .inr ⟨_, _, _, hi, hr, hd, rfl⟩
  | answered | latched => exact .inl rfl

theorem Accepted.trace {s u : State} (h : Accepted s u) : ∃ es, u.ports.trace = s.ports.trace ++ es := by
  cases h with
  | construct | answered => exact ⟨[_], rfl⟩
  | latched => exact ⟨[], by simp⟩

/-- Settles O39: the sequencer keeps `ADDR`, and of the acceptances only CONSTRUCT writes it. -/
theorem onlyConstructWritesAddress : Obligations.OnlyConstructWritesAddress := by
  intro s t h hne
  obtain ⟨u, rfl | hu, rfl⟩ := step_runs h
  · simp at hne
  rw [advance_addr] at hne ⊢
  obtain hk | ⟨w, rest, arg, hi, hr, hd, hk⟩ := hu.regs_cases
  · exact absurd (congrArg Regs.addr hk) hne
  · exact ⟨w, rest, arg, hi, hr, hd, by rw [hk]; exact addressOperand_eq arg⟩

/-- R59: the payload of RDSTAT, its zeros written out. -/
theorem statusPayload_eq (h : Bool) (w : Word16) : statusPayload h w = 0#8 ++ BitVec.ofBool h ++ w := by
  rw [statusPayload, BitVec.append_assoc, BitVec.setWidth_eq_append (by decide)]

/-- R127: the response of a committed RDSTAT carries the registers it has just written. -/
theorem commitAndSucceed_rdstat_trace {v : State} (h : v.lat.op = .rdstat) :
    (commitAndSucceed v).ports.trace = v.ports.trace ++ [.response .success
      (0#8 ++ BitVec.ofBool (commitAndSucceed v).regs.heaterOn ++ (commitAndSucceed v).regs.status)] := by
  rw [← statusPayload_eq]
  simp [h, payloadOf]

theorem commitAndSucceed_rdstat_heater {v : State} (h : v.lat.op = .rdstat) :
    (commitAndSucceed v).regs.heaterOn = (commitAndSucceed v).regs.status.getLsbD 13 := by
  rw [commitAndSucceed_regs, h]
  rfl

/-- Settles O40: a run of the sequencer writes the status registers only where it commits an RDSTAT, and of the acceptances
only CONSTRUCT writes them. -/
theorem statusOnlyFromRdstat : Obligations.StatusOnlyFromRdstat := by
  intro s t h hne
  obtain ⟨u, hu, rfl⟩ := step_runs h
  obtain ⟨hst, hht⟩ | ⟨v, hv, hop, ht⟩ := advance_status_cases maxSteps u
  · rw [hst, hht] at hne ⊢
    have hw : u.regs ≠ s.regs := by
      intro he
      simp [he] at hne
    obtain rfl | hu := hu
    · exact absurd rfl hw
    obtain hk | ⟨w, rest, arg, hi, hr, hd, hk⟩ := hu.regs_cases
    · exact absurd hk hw
    · exact .inl ⟨w, rest, arg, hi, hr, hd, by rw [hk]; rfl, by rw [hk]; rfl⟩
  · obtain ⟨es, he⟩ : ∃ es, u.ports.trace = s.ports.trace ++ es := by
      obtain rfl | hu := hu
      · exact ⟨[], by simp⟩
      · exact hu.trace
    obtain ⟨fs, hf⟩ := hv.trace
    rw [ht]
    refine .inr ⟨by simp [hop], rfl, commitAndSucceed_rdstat_heater hop, es ++ fs, ?_⟩
    rw [commitAndSucceed_rdstat_trace hop, hf, he, List.append_assoc s.ports.trace es fs]

end Sys2Proof.Machine
end

section
/-! The invariant of the engine: what acceptance and each step of the sequencer have to show for it, phase by phase (R21,
R23, R24, R75 to R87). -/

namespace Sys2Proof.Machine

/-! ### The converter is exact (R132, R133) -/

theorem convTemp_toInt (b : Buf) : (convTemp b).toInt = 175 * (b.rawTemp.toNat : Int) - 2949075 := by
  have hr := b.rawTemp.isLt
  have hn : (conv b).1 = 175 * (b.rawTemp.toNat : Int) - 2949075 := by
    simp only [conv, tempNumerator, tSpan, tOffset, divisor]
    omega
  rw [convTemp, BitVec.toInt_ofInt, hn]
  exact Int.bmod_eq_of_le (by omega) (by omega)

theorem convRh_toNat (b : Buf) : (convRh b).toNat = 100 * b.rawRh.toNat := by
  have hr := b.rawRh.isLt
  simp only [convRh, conv, rhNumerator, rhSpan, BitVec.toNat_ofNat]
  omega

theorem readingConsistent_of_conv (b : Buf) (r : Regs) :
    ReadingConsistent { r with buf := b, tempNum := convTemp b, rhNum := convRh b } :=
  .inr ⟨convTemp_toInt b, convRh_toNat b⟩

theorem readingConsistent_afterConstruct (a : BitVec 7) : ReadingConsistent (Regs.afterConstruct a) :=
  .inl ⟨rfl, rfl, rfl⟩

theorem heaterMirrors_afterConstruct (a : BitVec 7) : HeaterMirrors (Regs.afterConstruct a) := by
  simp [HeaterMirrors, Regs.afterConstruct]

/-- Every commit leaves a buffer and a reading that agree (R23, R93). -/
theorem ReadingConsistent.commit {s : State} (h : ReadingConsistent s.regs) (op : BusOp) :
    ReadingConsistent (commit op s).regs := by
  obtain hk | ⟨_, hk⟩ | ⟨_, hk⟩ := commit_cases op s <;> rw [hk]
  · exact h
  · exact readingConsistent_of_conv _ _
  · exact h

/-- Every commit leaves a heater flag and a status word that agree (R24, R127). -/
theorem HeaterMirrors.commit {s : State} (h : HeaterMirrors s.regs) (op : BusOp) : HeaterMirrors (commit op s).regs := by
  obtain hk | ⟨_, hk⟩ | ⟨_, hk⟩ := commit_cases op s <;> rw [hk]
  · exact h
  · exact h
  · rfl

/-! ### What is left to show -/

/-- In `IDLE` the invariant says nothing of the operation. -/
theorem EngineInv.of_idle {t : State} (hseq : t.seq = .idle) (hheld : t.chanHeld = false)
    (reading : ReadingConsistent t.regs) (heater : HeaterMirrors t.regs) (room : ReplyFits t) : EngineInv t where
  channel := by simp [ChannelBracket, hseq, hheld, Phase.holdsChannel]
  reading := reading
  heater := heater
  latched := fun h => absurd hseq h
  fits := by simp [PhaseFits, hseq]
  reply := by simp [ReplyComplete, hseq]
  room := room

/-- Later in the same operation the registers and the latched command still meet their parts of the invariant. -/
theorem EngineInv.onward {s t : State} (hinv : EngineInv s) (hseq : s.seq ≠ .idle) (hon : Onward s t)
    (channel : ChannelBracket t) (fits : PhaseFits t) (reply : ReplyComplete t) (room : ReplyFits t) : EngineInv t where
  channel := channel
  reading := hon.regs ▸ hinv.reading
  heater := hon.regs ▸ hinv.heater
  latched := fun _ => by
    rw [hon.regs, hon.cfg, hon.op, hon.arg, hon.cmd, hon.rlen]
    exact hinv.latched hseq
  fits := fits
  reply := reply
  room := room

theorem EngineInv.rlen_eq {s : State} (hinv : EngineInv s) (hseq : s.seq ≠ .idle) : s.lat.rlen = readLength s.lat.op := by
  obtain ⟨_, _, hrlen⟩ := hinv.latched hseq
  exact hrlen

/-! ### Acceptance -/

/-- Acceptance keeps the invariant. -/
theorem EngineInv.accepted {s u : State} (hinv : EngineInv s) (h : Accepted s u) : EngineInv u := by
  have held (hi : s.seq = .idle) : s.chanHeld = false := by
    simpa [ChannelBracket, hi, Phase.holdsChannel] using hinv.channel
  cases h with
  | construct hi hr hd =>
    exact .of_idle rfl rfl (readingConsistent_afterConstruct _) (heaterMirrors_afterConstruct _) hinv.room
  | answered r p hi hc => exact .of_idle rfl (held hi) hinv.reading hinv.heater hinv.room
  | latched hi hc hk =>
    exact {
      channel := held hi
      reading := hinv.reading
      heater := hinv.heater
      latched := fun _ => ⟨hc, hk, rfl⟩
      fits := by simp [PhaseFits]
      reply := by simp [ReplyComplete]
      room := hinv.room }

/-! ### The phases -/

theorem EngineInv.stepAcq {s : State} (hinv : EngineInv s) (hseq : s.seq = .acq) : EngineInv (stepAcq s) := by
  have hheld := hinv.channel
  obtain ⟨_, h⟩ | ⟨_, _, h⟩ := stepAcq_cases s
  all_goals
    refine hinv.onward (by simp [hseq]) (stepAcq_onward s) ?_ ?_ ?_ ?_ <;> rw [h]
  · rfl
  · simp [PhaseFits]
  · simp [ReplyComplete]
  · simpa [ReplyFits] using hinv.room
  · simpa [ChannelBracket] using hheld
  · simp [PhaseFits, hseq]
  · simp [ReplyComplete, hseq]
  · simpa [ReplyFits] using hinv.room

/-- R78: `READ` is skipped only where the operation reads nothing or its write has failed. -/
theorem afterWrite_cases (s : State) :
    (afterWrite s = .read ∧ s.lat.rlen ≠ 0) ∨
      (afterWrite s = .rel ∧ (s.ports.answer.outcome = .success → s.lat.rlen = 0)) := by
  unfold afterWrite
  split
  case isTrue h =>
    obtain ⟨hr, _⟩ := h
    exact .inl ⟨rfl, hr⟩
  case isFalse h => exact .inr ⟨rfl, fun ho => by simpa [ho] using h⟩

theorem EngineInv.stepWrite {s : State} (hinv : EngineInv s) (hseq : s.seq = .write) : EngineInv (stepWrite s) := by
  have hheld : s.chanHeld = true := by simpa [ChannelBracket, hseq, Phase.holdsChannel] using hinv.channel
  obtain ⟨ha, hr⟩ | ⟨ha, hr⟩ := afterWrite_cases s
  all_goals
    refine hinv.onward (by simp [hseq]) (stepWrite_onward s) ?_ ?_ ?_ hinv.room <;> rw [stepWrite_eq, ha]
  · exact hheld
  · simpa [PhaseFits] using hr
  · simp [ReplyComplete]
  · exact hheld
  · simp [PhaseFits]
  · exact fun _ ho hl => absurd (hr ho) hl

/-- R81: a read that counts as a success has brought as many bytes as were asked for. -/
theorem length_of_classifyRead {n : Nat} {a : Answer} (h : classifyRead n a = .success) : a.data.length = n := by
  unfold classifyRead at h
  split at h
  case isTrue => cases h
  case isFalse hn => simpa [h] using hn

theorem EngineInv.stepRead {s : State} (hinv : EngineInv s) (hseq : s.seq = .read) : EngineInv (stepRead s) := by
  have hbusy : s.seq ≠ .idle := by simp [hseq]
  have hle : s.lat.rlen.toNat ≤ 6 := hinv.rlen_eq hbusy ▸ readLength_le _
  refine hinv.onward hbusy (stepRead_onward s) ?_ ?_ ?_ ?_ <;> rw [stepRead_eq]
  · simpa [ChannelBracket, hseq, Phase.holdsChannel] using hinv.channel
  · simp [PhaseFits]
  · intro _ _ _ ho
    have := length_of_classifyRead ho
    simp only [List.length_take, bufLen]
    omega
  · simp [ReplyFits, bufLen]

theorem EngineInv.stepRel {s : State} (hinv : EngineInv s) (hseq : s.seq = .rel) : EngineInv (stepRel s) := by
  obtain ⟨hd, _, h⟩ | ⟨_, h⟩ := stepRel_cases s
  all_goals
    refine hinv.onward (by simp [hseq]) (stepRel_onward s) ?_ ?_ ?_ ?_ <;> rw [h]
  · rfl
  · exact ⟨by simp, fun _ => hd⟩
  · simp [ReplyComplete]
  · exact hinv.room
  · rfl
  · simp [PhaseFits]
  · exact fun _ => hinv.reply (.inl hseq)
  · exact hinv.room

/-- R45: an operation with the forced delay reads nothing. -/
theorem readLength_of_hasDelay {op : BusOp} (h : hasDelay op = true) : readLength op = 0 := by
  obtain rfl | rfl := (hasDelay_iff op).1 h <;> rfl

theorem EngineInv.stepDelay {s : State} (hinv : EngineInv s) (hseq : s.seq = .delay) : EngineInv (stepDelay s) := by
  have hbusy : s.seq ≠ .idle := by simp [hseq]
  have hd := hinv.fits.2 hseq
  have hrlen : s.lat.rlen = 0 := (hinv.rlen_eq hbusy).trans (readLength_of_hasDelay hd)
  have hheld := hinv.channel
  obtain ⟨_, h⟩ | ⟨_, h⟩ := stepDelay_cases s
  all_goals
    refine hinv.onward hbusy (stepDelay_onward s) ?_ ?_ ?_ ?_ <;> rw [h]
  · simpa [ChannelBracket, hseq, Phase.holdsChannel] using hheld
  · simp [PhaseFits]
  · exact fun _ _ hr => absurd hrlen hr
  · exact hinv.room
  · exact hheld
  · exact hinv.fits
  · exact hinv.reply
  · exact hinv.room

theorem EngineInv.stepResp {s : State} (hinv : EngineInv s) (hseq : s.seq = .resp) : EngineInv (stepResp s) := by
  have hheld : s.chanHeld = false := by simpa [ChannelBracket, hseq, Phase.holdsChannel] using hinv.channel
  obtain ⟨_, h⟩ | ⟨_, h⟩ := stepResp_cases s <;> rw [h]
  · exact .of_idle rfl hheld hinv.reading hinv.heater hinv.room
  · refine .of_idle rfl ?_ (hinv.reading.commit _) (hinv.heater.commit _) ?_
    · simpa using hheld
    · simpa [ReplyFits] using hinv.room

/-- Every step of the sequencer keeps the invariant. -/
theorem EngineInv.seqStep {s : State} (hinv : EngineInv s) : EngineInv (seqStep s) := by
  cases hs : s.seq with
  | idle => rw [seqStep_idle hs]; exact hinv
  | acq => rw [seqStep_acq hs]; exact hinv.stepAcq hs
  | write => rw [seqStep_write hs]; exact hinv.stepWrite hs
  | read => rw [seqStep_read hs]; exact hinv.stepRead hs
  | rel => rw [seqStep_rel hs]; exact hinv.stepRel hs
  | delay => rw [seqStep_delay hs]; exact hinv.stepDelay hs
  | resp => rw [seqStep_resp hs]; exact hinv.stepResp hs

/-- Settles O44: a step is an acceptance and a run of the sequencer, which both keep the invariant. -/
theorem stepKeepsInvariant : Obligations.StepKeepsInvariant := fun _ _ =>
  step_induction (fun _ _ => EngineInv.accepted) (fun _ => EngineInv.seqStep)

/-- Settles O45: a fine step is an acceptance or one step of the sequencer. -/
theorem sequencerStepKeepsInvariant : Obligations.SequencerStepKeepsInvariant := fun _ _ =>
  fineStep_induction (fun _ _ => EngineInv.accepted) (fun _ => EngineInv.seqStep)

end Sys2Proof.Machine
end

section
/-! The trace is an output (R25, R165).  Every operation of the engine commutes with putting earlier events in front of the
trace, so what it does and the events it adds are those of a run that began with none. -/

namespace Sys2Proof.Machine

/-- The ports with `pre` sent before everything the trace holds. -/
def Ports.withHistory (pre : List Event) (p : Ports) : Ports := { p with trace := pre ++ p.trace }

/-- The state with `pre` sent before everything its trace holds. -/
def State.withHistory (pre : List Event) (s : State) : State := { s with ports := s.ports.withHistory pre }

/-- A change of the next state, where there is one. -/
def mapNext (f : State → State) : Host.Outcome State Fault Refusal → Host.Outcome State Fault Refusal
  | .next s => .next (f s)
  | .fault r => .fault r
  | .refused r => .refused r

section
variable (pre : List Event) (p : Ports) (s : State)

/-! ### The ports -/

@[simp] theorem Ports.withHistory_requests : (p.withHistory pre).requests = p.requests := rfl
@[simp] theorem Ports.withHistory_answer : (p.withHistory pre).answer = p.answer := rfl
@[simp] theorem Ports.withHistory_channelFree : (p.withHistory pre).channelFree = p.channelFree := rfl
@[simp] theorem Ports.withHistory_timerDone : (p.withHistory pre).timerDone = p.timerDone := rfl
@[simp] theorem Ports.takeAnswer_withHistory : (p.withHistory pre).takeAnswer = p.takeAnswer.withHistory pre := rfl
@[simp] theorem Ports.takeChannel_withHistory : (p.withHistory pre).takeChannel = p.takeChannel.withHistory pre := rfl
@[simp] theorem Ports.takeTimer_withHistory : (p.withHistory pre).takeTimer = p.takeTimer.withHistory pre := rfl
@[simp] theorem Ports.emit_withHistory (e : Event) : (p.withHistory pre).emit e = (p.emit e).withHistory pre := by
  simp [Ports.emit, Ports.withHistory]

@[simp] theorem withHistory_cfg : (s.withHistory pre).cfg = s.cfg := rfl
@[simp] theorem withHistory_regs : (s.withHistory pre).regs = s.regs := rfl
@[simp] theorem withHistory_seq : (s.withHistory pre).seq = s.seq := rfl
@[simp] theorem withHistory_chanHeld : (s.withHistory pre).chanHeld = s.chanHeld := rfl
@[simp] theorem withHistory_lat : (s.withHistory pre).lat = s.lat := rfl
@[simp] theorem withHistory_ports : (s.withHistory pre).ports = s.ports.withHistory pre := rfl

theorem emit_withHistory (e : Event) : (s.withHistory pre).emit e = (s.emit e).withHistory pre := by
  simp [State.emit, State.withHistory]

theorem goto_withHistory (q : Phase) : (s.withHistory pre).goto q = (s.goto q).withHistory pre := rfl

/-! ### The steps of the sequencer -/

theorem succeed_withHistory (r : Payload) : succeed r (s.withHistory pre) = (succeed r s).withHistory pre := by
  simp only [succeed, emit_withHistory, goto_withHistory]

theorem fail_withHistory (r : Result) : fail r (s.withHistory pre) = (fail r s).withHistory pre := by
  simp only [fail, emit_withHistory, goto_withHistory]

theorem askChannel_withHistory : (s.withHistory pre).askChannel = s.askChannel.withHistory pre := by
  cases h : s.cfg.sharedChannel <;> simp [State.askChannel, h, State.withHistory]

theorem stepAcq_withHistory : stepAcq (s.withHistory pre) = (stepAcq s).withHistory pre := by
  have hg : (s.withHistory pre).channelGranted = s.channelGranted := by simp [State.channelGranted]
  simp only [stepAcq, hg, askChannel_withHistory]
  cases s.channelGranted
  · rfl
  · exact congrArg (State.goto · .write) (emit_withHistory pre { s.askChannel with chanHeld := true } .acquire)

theorem stepWrite_withHistory : stepWrite (s.withHistory pre) = (stepWrite s).withHistory pre := by
  have ha : afterWrite (s.withHistory pre) = afterWrite s := rfl
  rw [stepWrite_eq, stepWrite_eq, ha]
  simp [State.withHistory]

theorem stepRead_withHistory : stepRead (s.withHistory pre) = (stepRead s).withHistory pre := by
  simp [stepRead_eq, State.withHistory]

theorem stepRel_withHistory : stepRel (s.withHistory pre) = (stepRel s).withHistory pre := by
  by_cases h : hasDelay s.lat.op ∧ (s.lat.wout = .success ∨ s.cfg.delayOnFailedWrite) <;>
    simp only [stepRel, withHistory_cfg, withHistory_lat, h, if_false] <;>
    simp [State.emit, State.goto, State.withHistory]

theorem stepDelay_withHistory : stepDelay (s.withHistory pre) = (stepDelay s).withHistory pre := by
  cases h : s.ports.timerDone <;> simp [stepDelay, h, State.emit, State.goto, State.withHistory]

theorem commit_withHistory (op : BusOp) : commit op (s.withHistory pre) = (commit op s).withHistory pre := by
  cases op <;> rfl

theorem stepResp_withHistory : stepResp (s.withHistory pre) = (stepResp s).withHistory pre := by
  by_cases h : combined s.lat = .success
  · simp [stepResp, h, commit_withHistory, succeed_withHistory]
  · simp [stepResp, h, fail_withHistory]

theorem seqStep_withHistory : seqStep (s.withHistory pre) = (seqStep s).withHistory pre := by
  unfold seqStep
  rw [withHistory_seq]
  cases s.seq with
  | idle => rfl
  | acq => exact stepAcq_withHistory pre s
  | write => exact stepWrite_withHistory pre s
  | read => exact stepRead_withHistory pre s
  | rel => exact stepRel_withHistory pre s
  | delay => exact stepDelay_withHistory pre s
  | resp => exact stepResp_withHistory pre s

theorem construct_withHistory (a : BitVec 7) :
    construct a (s.withHistory pre) = (construct a s).withHistory pre := rfl

/-! ### A run, an acceptance, a step -/

theorem advance_withHistory (n : Nat) : advance n (s.withHistory pre) = (advance n s).withHistory pre := by
  induction n generalizing s with
  | zero => rfl
  | succ n ih =>
    simp only [advance_succ, seqStep_withHistory, withHistory_seq, ih]
    split <;> rfl

theorem whenReady_withHistory (o : Host.Outcome State Fault Refusal) :
    whenReady (s.withHistory pre) (mapNext (State.withHistory pre) o) =
      mapNext (State.withHistory pre) (whenReady s o) := by
  by_cases hi : s.seq = .idle <;> cases hc : s.regs.constructed <;> simp [whenReady, hi, hc, mapNext]

theorem startOperation_withHistory (op : BusOp) (arg : Byte) :
    startOperation op arg (s.withHistory pre) = mapNext (State.withHistory pre) (startOperation op arg s) := by
  rw [startOperation, startOperation, ← whenReady_withHistory, withHistory_cfg]
  cases catalog s.cfg op arg with
  | none => simp only [fail_withHistory, mapNext]
  | some c => rfl

theorem runOperation_withHistory (op : BusOp) (arg : Byte) :
    runOperation op arg (s.withHistory pre) = mapNext (State.withHistory pre) (runOperation op arg s) := by
  simp only [runOperation, startOperation_withHistory]
  cases startOperation op arg s with
  | next t => simp only [mapNext, advance_withHistory]
  | fault r | refused r => rfl

theorem execConstruct_withHistory (arg : Byte) :
    execConstruct arg (s.withHistory pre) = mapNext (State.withHistory pre) (execConstruct arg s) := by
  by_cases hi : s.seq = .idle <;> cases hm : arg.msb <;>
    simp [execConstruct, hi, hm, construct_withHistory, succeed_withHistory, mapNext]

theorem exec_withHistory (i : Instr) :
    exec i (s.withHistory pre) = mapNext (State.withHistory pre) (exec i s) := by
  cases ho : i.op with
  | bus op => rw [exec_bus ho, exec_bus ho, runOperation_withHistory]
  | construct =>
    cases i <;> cases ho
    exact execConstruct_withHistory pre s _
  | gett =>
    cases i <;> cases ho
    rw [exec, exec, execGett, execGett, ← whenReady_withHistory, mapNext, ← succeed_withHistory, withHistory_regs]
  | getrh =>
    cases i <;> cases ho
    rw [exec, exec, execGetrh, execGetrh, ← whenReady_withHistory, mapNext, ← succeed_withHistory, withHistory_regs]

theorem acceptWord_withHistory (w : ReqWord) :
    acceptWord w (s.withHistory pre) = mapNext (State.withHistory pre) (acceptWord w s) := by
  unfold acceptWord
  cases decode w with
  | ok i => exact exec_withHistory pre s i
  | error e =>
    cases e with
    | invalidMode op arg => exact startOperation_withHistory pre s op arg
    | reservedOp | reservedAddress => rfl

/-- A step commutes with a history. -/
theorem step_withHistory : step (s.withHistory pre) = mapNext (State.withHistory pre) (step s) := by
  by_cases hi : s.seq = .idle
  · cases hr : s.ports.requests with
    | nil => rw [step_waiting hi hr, step_waiting (by simpa using hi) (by simpa using hr), mapNext]
    | cons w rest =>
      rw [step_request hi hr, step_request (by simpa using hi) (by simpa using hr)]
      exact acceptWord_withHistory pre s.takeRequest w
  · rw [step_busy hi, step_busy (by simpa using hi), advance_withHistory, mapNext]

end

/-- Any trace is a history put in front of the empty one. -/
theorem withHistory_of_empty (s : State) (tr : List Event) :
    ({ s with ports := { s.ports with trace := [] } } : State).withHistory tr =
      { s with ports := { s.ports with trace := tr } } := by
  simp [State.withHistory, Ports.withHistory]

/-- A changed next state comes from a next state. -/
theorem mapNext_eq_next {f : State → State} {o : Host.Outcome State Fault Refusal} {t : State}
    (h : mapNext f o = .next t) : ∃ u, o = .next u ∧ t = f u := by
  cases o with
  | next u => exact ⟨u, rfl, by simpa [mapNext] using h.symm⟩
  | fault r | refused r => simp [mapNext] at h

/-- Settles O48: a step from `s` and one from `s` with another trace are both the step of `s` without a trace, with the
history put in front. -/
theorem traceIsOnlyAnOutput : Obligations.TraceIsOnlyAnOutput := by
  intro s t tr h
  have hs := step_withHistory s.ports.trace { s with ports := { s.ports with trace := [] } }
  rw [withHistory_of_empty] at hs
  obtain ⟨u, hu, rfl⟩ := mapNext_eq_next (hs.symm.trans h)
  refine ⟨u.ports.trace, rfl, ?_⟩
  rw [← withHistory_of_empty, step_withHistory, hu]
  rfl

end Sys2Proof.Machine
end

section
/-! What a step puts on the transport port: the one `Write` of a transaction is sent in the phase `WRITE`, where the invariant
ties the latched command to the catalog (R48, R76, R79). -/

namespace Sys2Proof.Machine

/-! ### The events added between two states -/

/-- The trace of `t` is the trace of `s` and further events, which all meet `P`. -/
def AddsOnly (P : Event → Prop) (s t : State) : Prop :=
  ∃ es, t.ports.trace = s.ports.trace ++ es ∧ ∀ e ∈ es, P e

section
variable {P Q : Event → Prop} {s t u : State}

theorem AddsOnly.of_trace_eq (h : t.ports.trace = s.ports.trace) : AddsOnly P s t := ⟨[], by simp [h]⟩

theorem AddsOnly.of_trace_append {e : Event} (h : t.ports.trace = s.ports.trace ++ [e]) (he : P e) : AddsOnly P s t :=
  ⟨[e], h, by simpa using he⟩

theorem AddsOnly.trans (hst : AddsOnly P s t) (htu : AddsOnly P t u) : AddsOnly P s u := by
  obtain ⟨es, he, hes⟩ := hst
  obtain ⟨fs, hf, hfs⟩ := htu
  exact ⟨es ++ fs, by rw [hf, he, List.append_assoc], List.forall_mem_append.2 ⟨hes, hfs⟩⟩

theorem AddsOnly.mono (h : AddsOnly P s t) (hPQ : ∀ e, P e → Q e) : AddsOnly Q s t := by
  obtain ⟨es, he, hes⟩ := h
  exact ⟨es, he, fun e hm => hPQ e (hes e hm)⟩

/-- The events added are the ones between the two traces, however they are named. -/
theorem AddsOnly.of_mem (h : AddsOnly P s t) {es : List Event} (he : t.ports.trace = s.ports.trace ++ es) {e : Event}
    (hm : e ∈ es) : P e := by
  obtain ⟨fs, hf, hfs⟩ := h
  obtain rfl : es = fs := List.append_cancel_left (he.symm.trans hf)
  exact hfs e hm

end

/-! ### Which steps write -/

/-- Only the phase `WRITE` sends a `Write` (R84). -/
theorem seqStep_adds_no_write {s : State} (hs : s.seq ≠ .write) : AddsOnly (·.isWrite = false) s (seqStep s) := by
  cases hq : s.seq with
  | idle => rw [seqStep_idle hq]; exact .of_trace_eq rfl
  | acq =>
    rw [seqStep_acq hq]
    obtain ⟨_, h⟩ | ⟨_, _, h⟩ := stepAcq_cases s <;> rw [h]
    · exact .of_trace_append (e := .acquire) (by simp) rfl
    · exact .of_trace_eq (by simp)
  | write => exact absurd hq hs
  | read => rw [seqStep_read hq]; exact .of_trace_append rfl rfl
  | rel =>
    rw [seqStep_rel hq]
    obtain ⟨_, _, h⟩ | ⟨_, h⟩ := stepRel_cases s <;> rw [h]
    · exact ⟨[.release, .delayStart s.cfg.tDelay], by simp, by simp [Event.isWrite]⟩
    · exact .of_trace_append rfl rfl
  | delay =>
    rw [seqStep_delay hq]
    obtain ⟨_, h⟩ | ⟨_, h⟩ := stepDelay_cases s <;> rw [h]
    · exact .of_trace_append rfl rfl
    · exact .of_trace_eq rfl
  | resp =>
    rw [seqStep_resp hq]
    obtain ⟨_, _, _, h⟩ := stepResp_responds s
    exact .of_trace_append h rfl

/-- Acceptance sends nothing but a response (R75, R76). -/
theorem Accepted.adds_no_write {s u : State} (h : Accepted s u) : AddsOnly (·.isWrite = false) s u := by
  cases h with
  | construct | answered => exact .of_trace_append rfl rfl
  | latched => exact .of_trace_eq rfl

/-! ### What is written -/

/-- Where the event is a `Write`, it goes to `addr` and carries a command word of the catalog (R48, R79). -/
def CatalogWrite (c : Config) (addr : BitVec 7) (e : Event) : Prop :=
  ∀ (a : Byte) (b : List Byte) (o : BusOutcome), e = .write a b o →
    a = busAddress addr ∧ ∃ (op : BusOp) (m : Byte) (w : Word16), catalog c op m = some w ∧ b = cmdBytes w

theorem CatalogWrite.of_not_write {c : Config} {addr : BitVec 7} {e : Event} (h : e.isWrite = false) :
    CatalogWrite c addr e := by
  rintro a b o rfl
  cases h

theorem CatalogWrite.of_catalog {c : Config} {addr : BitVec 7} {op : BusOp} {m : Byte} {w : Word16} {o : BusOutcome}
    (h : catalog c op m = some w) : CatalogWrite c addr (.write (busAddress addr) (cmdBytes w) o) := by
  rintro a b o' he
  cases he
  exact ⟨rfl, op, m, w, h, rfl⟩

@[simp] theorem seqStep_addr (s : State) : (seqStep s).regs.addr = s.regs.addr := by
  obtain h | ⟨_, _, h⟩ := seqStep_cases s
  · rw [h.regs]
  · simp [h]

/-- In `WRITE` the invariant gives the catalog word of the command that is sent; no other phase writes. -/
theorem EngineInv.seqStep_catalogWrite {s : State} (hinv : EngineInv s) :
    AddsOnly (CatalogWrite s.cfg s.regs.addr) s (Machine.seqStep s) := by
  by_cases hq : s.seq = .write
  · obtain ⟨_, hcmd, _⟩ := hinv.latched (by simp [hq])
    rw [seqStep_write hq]
    exact .of_trace_append rfl (.of_catalog hcmd)
  · exact (seqStep_adds_no_write hq).mono fun _ => .of_not_write

/-- The parameters, the address and the invariant last through a run of the sequencer, so its writes are catalog words too. -/
theorem EngineInv.advance_catalogWrite (n : Nat) {s : State} (hinv : EngineInv s) :
    AddsOnly (CatalogWrite s.cfg s.regs.addr) s (advance n s) := by
  induction n generalizing s with
  | zero => exact .of_trace_eq rfl
  | succ n ih =>
    have hstep := hinv.seqStep_catalogWrite
    rw [advance_succ]
    split
    · exact hstep
    · have hrun := ih hinv.seqStep
      rw [seqStep_cfg, seqStep_addr] at hrun
      exact hstep.trans hrun

/-- A step writes only catalog words, to the address it leaves in `ADDR`: acceptance, which may set it, writes nothing. -/
theorem EngineInv.step_catalogWrite {s t : State} (hinv : EngineInv s) (h : step s = .next t) :
    AddsOnly (CatalogWrite s.cfg t.regs.addr) s t := by
  obtain ⟨u, rfl | hu, rfl⟩ := step_runs h <;> rw [advance_addr]
  · exact hinv.advance_catalogWrite maxSteps
  · have hrun := (hinv.accepted hu).advance_catalogWrite maxSteps
    rw [hu.cfg] at hrun
    exact (hu.adds_no_write.mono fun _ => .of_not_write).trans hrun

/-- Settles O46: the events between the two traces are those the step has added. -/
theorem writesCarryCatalogWords : Obligations.WritesCarryCatalogWords := by
  intro s t es a b o hinv h he hm
  exact (hinv.step_catalogWrite h).of_mem he hm a b o rfl

end Sys2Proof.Machine
end

section
/-! The encodings: what the request words mean, which of them are reserved (R55 to R57, R67), which modes the catalog has a
word for (R64), and the fields of the words the host reads (R58, R59, R66, R129). -/

namespace Sys2Proof

/-! ### The operation numbers (R56) -/

theorem ofCode_code (op : Op) : Op.ofCode op.code = some op := by
  cases op with
  | bus b => cases b <;> rfl
  | construct | gett | getrh => rfl

/-- R67 a: the numbers 13 to 15 name no operation. -/
theorem ofCode_eq_none {c : BitVec 4} (h : 13 ≤ c.toNat) : Op.ofCode c = none := by
  unfold Op.ofCode
  split
  case h_14 => rfl
  all_goals omega

/-! ### The decoder on whole words -/

/-- R55, R57: a request word is decoded by its operation's operand decoding. -/
theorem decode_requestWord (op : Op) (arg : Byte) : decode (requestWord op arg) = decodeOperand op arg := by
  obtain ⟨hop, harg⟩ := requestWord_fields op arg
  rw [decode, hop, harg, ofCode_code]

theorem decode_reservedOp {w : ReqWord} (h : 13 ≤ w.toNat / 256) : decode w = .error (.reservedOp w) := by
  have hnone : Op.ofCode (opField w) = none := ofCode_eq_none ((fields_toNat w).1 ▸ h)
  rw [decode, hnone]

/-- Bit 7 of a byte is set from 128 on. -/
theorem byte_msb_iff (b : Byte) : b.msb = true ↔ 128 ≤ b.toNat := by
  rw [BitVec.msb_eq_true_iff_two_mul_ge]
  omega

theorem decode_reservedAddress {w : ReqWord} (hop : w.toNat / 256 = 0) (harg : 128 ≤ w.toNat % 256) :
    decode w = .error (.reservedAddress (argField w)) := by
  obtain ⟨ho, ha⟩ := fields_toNat w
  have hzero : opField w = Op.construct.code := BitVec.eq_of_toNat_eq (ho.trans hop)
  have hmsb : (argField w).msb = true := (byte_msb_iff _).2 (ha ▸ harg)
  rw [decode, hzero, ofCode_code]
  simp [decodeOperand, hmsb]

/-- The same of several words of one operation. -/
theorem decode_requestWords (op : Op) (args : List Byte) :
    (args.map (requestWord op)).map decode = args.map (decodeOperand op) := by
  simp [decode_requestWord]

/-- Settles O3: each word is the request word of its row's operation and operand, and decodes by the operand alone. -/
theorem decodesSpecWords : Obligations.DecodesSpecWords :=
  ⟨decode_requestWord .construct 0x44,
    decode_requestWords (.bus .meas) [1, 2, 3, 4, 5, 6],
    decode_requestWords (.bus .periodic) [1, 2, 3, 4, 5, 6, 7, 8, 9, 10, 11, 12, 13, 14, 15],
    decode_requestWord (.bus .fetch) 0xA5, decode_requestWord (.bus .brk) 0xFF,
    decode_requestWord (.bus .sreset) 0, decode_requestWord (.bus .rdstat) 0,
    decode_requestWord (.bus .clrstat) 0x10, decode_requestWord (.bus .heaton) 0,
    decode_requestWord (.bus .heatoff) 0, decode_requestWord (.bus .art) 3,
    decode_requestWord .gett 1, decode_requestWord .getrh 0⟩

end Sys2Proof

namespace Sys2Proof.Machine

/-! ### Reserved requests (R67) -/

theorem acceptWord_reservedOp {w w' : ReqWord} (h : decode w = .error (.reservedOp w')) (s : State) :
    acceptWord w s = .refused (.reservedRequest w) := by
  simp [acceptWord, h]

theorem acceptWord_reservedAddress {w : ReqWord} {arg : Byte} (h : decode w = .error (.reservedAddress arg)) (s : State) :
    acceptWord w s = .refused (.reservedRequest w) := by
  simp [acceptWord, h]

/-- Settles O4: the decoder names both reserved encodings, and acceptance refuses either. -/
theorem reservedWordsRefused : Obligations.ReservedWordsRefused := by
  rintro s w rest hidle hreq (hop | ⟨hop, harg⟩) <;> rw [step_request hidle hreq]
  · exact acceptWord_reservedOp (decode_reservedOp hop) _
  · exact acceptWord_reservedAddress (decode_reservedAddress hop harg) _

theorem execConstruct_reserved {arg : Byte} {s : State} (hidle : s.seq = .idle) (hmsb : arg.msb = true) :
    execConstruct arg s = .refused (.reservedAddress arg) := by
  simp [execConstruct, hidle, hmsb]

/-- Settles O25: an operand from 128 on has bit 7 set. -/
theorem constructRefusesEightBitAddress : Obligations.ConstructRefusesEightBitAddress := fun _ arg hidle harg =>
  execConstruct_reserved hidle ((byte_msb_iff arg).2 harg)

/-! ### The Command Catalog (R60 to R64) -/

/-- Settles O6: row by row, the catalog's word is the one the tables print or name, under any parameters and under V-K's. -/
theorem catalogFollowsTables : Obligations.CatalogFollowsTables :=
  ⟨fun _ => ⟨rfl, rfl, fun _ => rfl⟩, rfl, rfl, rfl⟩

theorem catalogSingleShot_ne_none_iff (c : Config) (m : Nat) : catalogSingleShot c m ≠ none ↔ 1 ≤ m ∧ m ≤ 6 := by
  unfold catalogSingleShot
  split
  case h_7 => exact iff_of_false (not_not.2 rfl) (by grind)
  all_goals simp

theorem catalogPeriodic_ne_none_iff (c : Config) (m : Nat) : catalogPeriodic c m ≠ none ↔ 1 ≤ m ∧ m ≤ 15 := by
  unfold catalogPeriodic
  split
  case h_16 => exact iff_of_false (not_not.2 rfl) (by grind)
  all_goals simp

/-- R64: an operation without modes has one command word, whatever its operand byte. -/
theorem catalog_of_no_mode {op : BusOp} (hm : op ≠ .meas) (hp : op ≠ .periodic) (c : Config) :
    ∃ w, ∀ arg, catalog c op arg = some w := by
  cases op
  case meas => exact absurd rfl hm
  case periodic => exact absurd rfl hp
  all_goals exact ⟨_, fun _ => rfl⟩

/-- Settles O7: by the two mode tables and the fixed words. -/
theorem catalogDomain : Obligations.CatalogDomain := by
  refine fun c arg => ⟨catalogSingleShot_ne_none_iff c _, catalogPeriodic_ne_none_iff c _, fun op hm hp => ?_⟩
  obtain ⟨w, hw⟩ := catalog_of_no_mode hm hp c
  simp [hw]

/-! ### The response word and the status payload (R58, R59, R66) -/

theorem responseWord_result (r : Result) (p : Payload) : (responseWord r p).extractLsb' 25 3 = r.code :=
  BitVec.extractLsb'_append_eq_left

theorem responseWord_payload (r : Result) (p : Payload) : (responseWord r p).extractLsb' 0 25 = p :=
  BitVec.extractLsb'_append_eq_right

theorem statusPayload_status (h : Bool) (w : Word16) : (statusPayload h w).extractLsb' 0 16 = w := by
  rw [statusPayload_eq]
  exact BitVec.extractLsb'_append_eq_right

theorem statusPayload_heater (h : Bool) (w : Word16) : (statusPayload h w).getLsbD 16 = h := by
  rw [statusPayload_eq, BitVec.getLsbD_append, BitVec.getLsbD_append]
  simp

theorem statusPayload_upper (h : Bool) (w : Word16) : (statusPayload h w).extractLsb' 17 8 = 0 := by
  rw [statusPayload_eq, BitVec.append_assoc]
  exact BitVec.extractLsb'_append_eq_left

/-- Bits 15:0 of the payload are the status word's own. -/
theorem statusPayload_getLsbD {i : Nat} (hi : i < 16) (h : Bool) (w : Word16) :
    (statusPayload h w).getLsbD i = w.getLsbD i := by
  rw [statusPayload_eq, BitVec.getLsbD_append, if_pos hi]

/-- Settles O52: the two words field by field; the named flags are bits of the status word. -/
theorem responseFields : Obligations.ResponseFields := by
  refine ⟨fun p => ?_, responseWord_payload, fun h w => ⟨statusPayload_status h w, statusPayload_heater h w,
    statusPayload_upper h w, ?_⟩⟩
  · simp only [responseWord_result]
    rfl
  · simp (disch := decide) only [statusFlags, statusPayload_getLsbD, and_self]

end Sys2Proof.Machine
end

section
/-! The sequencer's own steps, phase by phase, in the words of their rules (R77 to R88). -/

namespace Sys2Proof.Machine

/-! ### Events appended to the trace

Whatever an input does to the ports, the events sent before it can be read off last. -/

theorem Ports.emit_eq_send (p : Ports) (e : Event) : p.emit e = p.send [e] := rfl

@[simp] theorem Ports.send_send (p : Ports) (es fs : List Event) : (p.send es).send fs = p.send (es ++ fs) := by
  simp [Ports.send]

@[simp] theorem Ports.takeAnswer_send (p : Ports) (es : List Event) :
    (p.send es).takeAnswer = p.takeAnswer.send es := rfl

@[simp] theorem Ports.takeTimer_send (p : Ports) (es : List Event) : (p.send es).takeTimer = p.takeTimer.send es := rfl

@[simp] theorem Ports.answer_send (p : Ports) (es : List Event) : (p.send es).answer = p.answer := rfl

@[simp] theorem Ports.timerDone_send (p : Ports) (es : List Event) : (p.send es).timerDone = p.timerDone := rfl

/-! ### The phases -/

/-- Settles O13: without `SHARED_CHANNEL` there is no question to ask, with it the channel input answers it. -/
theorem acquireStep : Obligations.AcquireStep := by
  intro s hs
  rw [fineStep_busy (by simp [hs]), seqStep_acq hs]
  obtain ⟨hg, h⟩ | ⟨hsh, hg, h⟩ := stepAcq_cases s <;> rw [h]
  · refine ⟨fun hsh => ?_, fun hsh _ => ?_, fun hsh hf => ?_⟩
    · simp [State.askChannel, State.emit, State.goto, Ports.emit, hsh]
    · simp [State.askChannel, State.emit, State.goto, Ports.emit, hsh]
    · simp [State.channelGranted, hsh, hf] at hg
  · refine ⟨fun hn => by simp [hsh] at hn, fun _ hf => ?_, fun _ _ => by simp [State.askChannel, hsh]⟩
    simp [State.channelGranted, hf] at hg

theorem afterWrite_eq (s : State) :
    afterWrite s = if 0 < s.lat.rlen.toNat ∧ (s.ports.answer.outcome = .success ∨ s.cfg.readAfterFailedWrite = true)
      then .read else .rel := by
  simp only [afterWrite, rlen_ne_zero_iff]

/-- Settles O14: `RLEN` is positive where it is not 0. -/
theorem writeStep : Obligations.WriteStep := by
  intro s hs
  rw [fineStep_busy (by simp [hs]), seqStep_write hs, stepWrite_eq, afterWrite_eq]
  rfl

/-- Settles O15: it is the law of the phase. -/
theorem readStep : Obligations.ReadStep := by
  intro s hs
  rw [fineStep_busy (by simp [hs]), seqStep_read hs]
  rfl

/-- Settles O16: the operations with a forced delay are PERIODIC and ART. -/
theorem releaseStep : Obligations.ReleaseStep := by
  intro s hs
  rw [fineStep_busy (by simp [hs]), seqStep_rel hs, ← hasDelay_iff]
  obtain ⟨hop, hout, h⟩ | ⟨hnot, h⟩ := stepRel_cases s <;> rw [h]
  · refine ⟨fun _ => ?_, fun hn => absurd ⟨hop, hout⟩ hn⟩
    rw [Ports.emit_eq_send, Ports.emit_eq_send, Ports.send_send]
    rfl
  · exact ⟨fun hd => absurd hd hnot, fun _ => rfl⟩

/-- Settles O17: the length is the minimum of R6 and what a parameter adds to it. -/
theorem delayPhase : Obligations.DelayPhase := by
  refine ⟨fun c => Nat.le_add_right tDelayMin c.tDelayExtra, fun s hs => ?_⟩
  rw [fineStep_busy (by simp [hs]), seqStep_delay hs]
  obtain ⟨ht, h⟩ | ⟨ht, h⟩ := stepDelay_cases s <;> rw [h]
  · exact ⟨fun _ => rfl, fun hn => by simp [ht] at hn⟩
  · exact ⟨fun hn => by simp [ht] at hn, fun _ => rfl⟩

theorem combined_of_failed_write {l : Latches} (h : l.wout ≠ .success) : combined l = l.wout := by
  simp [combined, h]

theorem combined_of_no_read {l : Latches} (h : l.wout = .success) (hr : l.rlen = 0) : combined l = .success := by
  simp [combined, h, hr]

theorem combined_of_read {l : Latches} (h : l.wout = .success) (hr : l.rlen ≠ 0) : combined l = l.rout := by
  rw [combined, if_neg (not_not.2 h), if_neg hr]

/-- Settles O18, case by case. -/
theorem combinedOutcome : Obligations.CombinedOutcome := fun l =>
  ⟨combined_of_failed_write, combined_of_no_read, fun h hr => combined_of_read h ((rlen_ne_zero_iff l.rlen).2 hr)⟩

theorem stepResp_of_failure {s : State} (h : combined s.lat ≠ .success) :
    stepResp s = fail (resultOf (combined s.lat)) s := by
  simp [stepResp, h]

theorem stepResp_of_success {s : State} (h : combined s.lat = .success) : stepResp s = commitAndSucceed s := by
  simp [stepResp, h, commitAndSucceed]

/-- R59: only RDSTAT has a payload. -/
theorem payloadOf_of_ne_rdstat {op : BusOp} (h : op ≠ .rdstat) (r : Regs) : payloadOf op r = 0 := by
  cases op
  case rdstat => exact absurd rfl h
  all_goals rfl

/-- R59, R90: an operation that is no reading one commits nothing and answers no payload. -/
theorem commitAndSucceed_of_write_only {s : State} (hm : s.lat.op ≠ .meas) (hf : s.lat.op ≠ .fetch)
    (hr : s.lat.op ≠ .rdstat) : commitAndSucceed s = succeed 0 s := by
  rw [commitAndSucceed, payloadOf_of_ne_rdstat hr]
  obtain h | ⟨ho, _⟩ | ⟨ho, _⟩ := commit_cases s.lat.op s
  · rw [h]
  · simp [hm, hf] at ho
  · exact absurd ho hr

/-- Settles O19: a failure is reported; a success is committed by the kind of the operation. -/
theorem responseStep : Obligations.ResponseStep := by
  intro s hs
  rw [fineStep_busy (by simp [hs]), seqStep_resp hs]
  refine ⟨fun hc => ?_, fun hc hop => ?_, fun hc hop => ?_, fun hc hm hf hr => ?_⟩
  · rw [stepResp_of_failure hc]
    rfl
  · rw [stepResp_of_success hc]
    obtain hop | hop := hop <;> rw [commitAndSucceed, hop] <;> rfl
  · rw [stepResp_of_success hc, commitAndSucceed, hop]
    rfl
  · rw [stepResp_of_success hc, commitAndSucceed_of_write_only hm hf hr]
    rfl

end Sys2Proof.Machine
end

section
/-! Acceptance in `IDLE` (R75, R76), and how a step of the machine is made of the sequencer's own steps (R85, R91). -/

namespace Sys2Proof.Machine

/-! ### Acceptance in one step -/

theorem takeRequest_eq {s : State} {w : ReqWord} {rest : List ReqWord} (hr : s.ports.requests = w :: rest) :
    s.takeRequest = { s with ports := { s.ports with requests := rest } } := by
  rw [State.takeRequest, hr]
  rfl

/-- Settles O8: a request is put to the engine once it has left the port. -/
theorem stepRunsDecodedRequest : Obligations.StepRunsDecodedRequest := by
  intro s w rest i hidle hreq hdec
  rw [step_request hidle hreq, acceptWord_ok hdec, takeRequest_eq hreq]

theorem whenReady_busy {s : State} (h : s.seq ≠ .idle) (o : Host.Outcome State Fault Refusal) :
    whenReady s o = .refused .busy := by
  rw [whenReady, if_pos h]

/-- R75, U7: a busy engine refuses every instruction. -/
theorem exec_busy {s : State} (h : s.seq ≠ .idle) (i : Instr) : exec i s = .refused .busy := by
  cases ho : i.op with
  | bus op => rw [exec_bus ho, runOperation, startOperation, whenReady_busy h]
  | construct =>
    cases i <;> simp [Instr.op] at ho
    exact if_pos h
  | gett | getrh =>
    cases i <;> simp [Instr.op] at ho
    exact whenReady_busy h _

/-- Settles O11: the operation in flight goes on, and no sequencer step touches the requests. -/
theorem busyEngineTakesNoRequest : Obligations.BusyEngineTakesNoRequest := fun s h =>
  ⟨exec_busy h, _, step_busy h, advance_requests maxSteps s⟩

/-! ### Acceptance as a fine step -/

theorem fineStep_waiting {s : State} (hi : s.seq = .idle) (hr : s.ports.requests = []) : fineStep s = .next s := by
  simp [fineStep, hi, hr]

theorem fineStep_request {s : State} {w : ReqWord} {rest : List ReqWord} (hi : s.seq = .idle)
    (hr : s.ports.requests = w :: rest) : fineStep s = fineAcceptWord w s.takeRequest := by
  simp [fineStep, hi, hr]

/-- R57: what is decoded, or is no instruction for its mode, is the operation of the word's `op` field with the word's
operand byte. -/
theorem fineAcceptWord_bus {w : ReqWord} {op : BusOp} (h : Op.ofCode (opField w) = some (.bus op)) (s : State) :
    fineAcceptWord w s = startOperation op (argField w) s := by
  have hd : decode w = decodeOperand (.bus op) (argField w) := by rw [decode, h]
  have hmode : ∀ o : Option Instr, decode w = orInvalidMode op (argField w) o →
      fineAcceptWord w s = startOperation op (argField w) s := by
    rintro (_ | i) ho
    · simp [fineAcceptWord, ho, orInvalidMode]
    · obtain ⟨hop, harg, _⟩ := decodeOperand_ok (hd ▸ ho)
      simp [fineAcceptWord, ho, orInvalidMode, startInstr, hop, harg]
  cases op
  case meas => exact hmode (measOfMode (argField w).toNat) hd
  case periodic => exact hmode (periodicOfMode (argField w).toNat) hd
  all_goals exact hmode (some _) hd

theorem ofCode_of_decode {w : ReqWord} {i : Instr} (h : decode w = .ok i) :
    Op.ofCode (opField w) = some i.op ∧ i.arg = argField w := by
  unfold decode at h
  split at h
  case h_1 op hop =>
    obtain ⟨rfl, harg, _⟩ := decodeOperand_ok h
    exact ⟨hop, harg⟩
  case h_2 => cases h

@[simp] theorem seqStep_cmd (s : State) : (seqStep s).lat.cmd = s.lat.cmd := by
  obtain h | ⟨_, _, h⟩ := seqStep_cases s
  · exact h.cmd
  · simp [h]

/-- Settles O12: the operation and operand of the word are latched; of the other fine steps none writes `CMD`. -/
theorem latchingStep : Obligations.LatchingStep := by
  refine ⟨fun s w rest i op hidle hcon hreq hdec hop => ?_, fun s t h hne => ?_⟩
  · obtain ⟨hcode, harg⟩ := ofCode_of_decode hdec
    obtain ⟨cmd, hcmd⟩ := catalog_of_instr hop s.cfg
    rw [harg] at hcmd
    refine ⟨cmd, hcmd, ?_⟩
    rw [fineStep_request hidle hreq, fineAcceptWord_bus (hop ▸ hcode),
      startOperation_some (s := s.takeRequest) hidle hcon hcmd, latchOperation, readLength_eq, takeRequest_eq hreq]
  · obtain rfl | ha := fineStep_next h
    · simp at hne
    · cases ha with
      | construct | answered => exact absurd rfl hne
      | latched hi => exact ⟨hi, rfl⟩

/-! ### A step is an acceptance in one fine step, and a run -/

theorem mapNext_of_fixed {f : State → State} {o : Host.Outcome State Fault Refusal}
    (h : ∀ t, o = .next t → f t = t) : mapNext f o = o := by
  cases o with
  | next t => exact congrArg _ (h t rfl)
  | fault r => rfl
  | refused r => rfl

theorem runOperation_eq (op : BusOp) (arg : Byte) (s : State) :
    runOperation op arg s = mapNext (advance maxSteps) (startOperation op arg s) := by
  unfold runOperation
  cases startOperation op arg s <;> rfl

/-- R75: an instruction that makes no transfer is done in the step that takes it. -/
theorem exec_local_seq {i : Instr} {s t : State} (hl : ∀ op, i.op ≠ .bus op) (h : exec i s = .next t) :
    t.seq = .idle := by
  obtain ⟨_, ⟨_, _, _, rfl⟩ | ⟨_, ⟨_, _, rfl⟩ | ⟨_, _, rfl⟩ | ⟨op, _, hop, _⟩⟩⟩ := exec_next h
  case inr.inr.inr => exact absurd hop (hl op)
  all_goals rfl

theorem startInstr_local {i : Instr} (hl : ∀ op, i.op ≠ .bus op) (s : State) : startInstr i s = exec i s := by
  unfold startInstr
  split
  case h_2 op hop => exact absurd hop (hl op)
  all_goals rfl

theorem startInstr_local_seq {i : Instr} {s t : State} (hl : ∀ op, i.op ≠ .bus op) (h : startInstr i s = .next t) :
    t.seq = .idle :=
  exec_local_seq hl (startInstr_local hl s ▸ h)

/-- R76: an instruction is its first step, run on. -/
theorem exec_eq_startInstr (i : Instr) (s : State) : exec i s = mapNext (advance maxSteps) (startInstr i s) := by
  by_cases hb : ∃ op, i.op = .bus op
  · obtain ⟨op, hop⟩ := hb
    rw [exec_bus hop, runOperation_eq, startInstr, hop]
  · have hl : ∀ op, i.op ≠ .bus op := fun op hop => hb ⟨op, hop⟩
    rw [startInstr_local hl, mapNext_of_fixed fun t ht => advance_idle (exec_local_seq hl ht)]

/-- R150: an invalid mode is answered in the step that takes it. -/
theorem startOperation_invalidMode_seq {op : BusOp} {arg : Byte} {s t : State} (hk : catalog s.cfg op arg = none)
    (h : startOperation op arg s = .next t) : t.seq = .idle := by
  obtain ⟨_, _, ⟨_, rfl⟩ | ⟨c, hc, _⟩⟩ := startOperation_next h
  · rfl
  · simp [hk] at hc

theorem acceptWord_eq_fine (w : ReqWord) (s : State) :
    acceptWord w s = mapNext (advance maxSteps) (fineAcceptWord w s) := by
  unfold acceptWord fineAcceptWord
  cases hd : decode w with
  | ok i => exact exec_eq_startInstr i s
  | error e =>
    cases e with
    | reservedOp | reservedAddress => rfl
    | invalidMode op arg =>
      exact (mapNext_of_fixed fun t ht =>
        advance_idle (startOperation_invalidMode_seq (catalog_of_invalidMode hd s.cfg) ht)).symm

/-- From `IDLE` a step is a fine step and a run of the sequencer from where it leads. -/
theorem step_idle {s : State} (hi : s.seq = .idle) : step s = mapNext (advance maxSteps) (fineStep s) := by
  cases hr : s.ports.requests with
  | nil => rw [step_waiting hi hr, fineStep_waiting hi hr, mapNext, advance_idle hi]
  | cons w rest => rw [step_request hi hr, fineStep_request hi hr, acceptWord_eq_fine]

/-- Settles O22: both steps run the sequencer on from the latched state. -/
theorem latchedOperationGoesOn : Obligations.LatchedOperationGoesOn := by
  intro s m hidle h hacq
  rw [step_idle hidle, h, step_busy (by simp [hacq])]
  rfl

/-! ### The run, one fine step at a time -/

theorem fineRun_succ {n : Nat} {s t : State} (h : fineStep s = .next t) : fineRun (n + 1) s = fineRun n t := by
  rw [fineRun, h]

/-- A run of the sequencer is a run of as many fine steps, or fewer where it stops at a hold or in `IDLE`. -/
theorem exists_fineRun_eq_advance (n : Nat) (s : State) : ∃ k ≤ n, fineRun k s = .next (advance n s) := by
  induction n generalizing s with
  | zero => exact ⟨0, le_rfl, rfl⟩
  | succ n ih =>
    by_cases hi : s.seq = .idle
    · exact ⟨0, Nat.zero_le _, by rw [advance_idle hi]; rfl⟩
    · have hstep := fineStep_busy hi
      rw [advance_succ]
      split
      · exact ⟨1, by omega, fineRun_succ hstep⟩
      · obtain ⟨k, hk, hrun⟩ := ih (seqStep s)
        exact ⟨k + 1, by omega, by rw [fineRun_succ hstep, hrun]⟩

theorem Phase.ahead_le (q : Phase) : q.ahead ≤ 6 := by cases q <;> decide

/-- R85: no run needs the seventh step. -/
theorem advance_maxSteps (s : State) : advance maxSteps s = advance 6 s := advance_enough 6 s s.seq.ahead_le

/-- Settles O21: acceptance is one fine step, and the run after it at most six. -/
theorem stepIsRunOfSequencerSteps : Obligations.StepIsRunOfSequencerSteps := by
  intro s
  by_cases hi : s.seq = .idle
  · rw [step_idle hi]
    cases hf : fineStep s with
    | next u =>
      obtain ⟨k, hk, hrun⟩ := exists_fineRun_eq_advance 6 u
      exact ⟨k + 1, by omega, by rw [fineRun_succ hf, hrun, mapNext, advance_maxSteps]⟩
    | fault r => cases r
    | refused r => exact ⟨1, by omega, by rw [fineRun, hf]; rfl⟩
  · rw [step_busy hi]
    exact exists_fineRun_eq_advance maxSteps s

/-! ### The table of transitions (R85) -/

/-- R64, R76: the request words of bus operations that the catalog has a word for. -/
theorem catalog_ne_none_iff {w : ReqWord} {op : BusOp} (h : Op.ofCode (opField w) = some (.bus op)) (c : Config) :
    catalog c op (argField w) ≠ none ↔
      (w.toNat / 256 = 1 ∧ 1 ≤ w.toNat % 256 ∧ w.toNat % 256 ≤ 6) ∨
        (w.toNat / 256 = 2 ∧ 1 ≤ w.toNat % 256 ∧ w.toNat % 256 ≤ 15) ∨
        (3 ≤ w.toNat / 256 ∧ w.toNat / 256 ≤ 10) := by
  obtain ⟨hop, harg⟩ := fields_toNat w
  obtain ⟨hmeas, hperiodic, hfixed⟩ := catalogDomain c (argField w)
  rw [← code_of_ofCode h] at hop
  rw [harg] at hmeas hperiodic
  cases op
  case meas =>
    have hop : 1 = w.toNat / 256 := hop
    rw [hmeas]
    omega
  case periodic =>
    have hop : 2 = w.toNat / 256 := hop
    rw [hperiodic]
    omega
  all_goals
    simp only [Op.code, BusOp.code, BitVec.toNat_ofNat] at hop
    exact iff_of_true (hfixed _ (by simp) (by simp)).1 (by omega)

/-- What taking a request comes to: the acceptance of a bus operation, or an instruction that is done at once. -/
theorem fineAcceptWord_next {w : ReqWord} {s t : State} (h : fineAcceptWord w s = .next t) :
    (∃ op, Op.ofCode (opField w) = some (.bus op) ∧ startOperation op (argField w) s = .next t) ∨
      ((w.toNat / 256 = 0 ∨ 10 < w.toNat / 256) ∧ t.seq = .idle) := by
  cases hc : Op.ofCode (opField w) with
  | none => simp [fineAcceptWord, decode, hc] at h
  | some o =>
    have hcode : o.code.toNat = w.toNat / 256 := code_of_ofCode hc ▸ (fields_toNat w).1
    rw [← hcode]
    cases o with
    | bus op => exact .inl ⟨op, rfl, by rw [← h, fineAcceptWord_bus hc]⟩
    | construct =>
      cases hm : (argField w).msb <;> simp [fineAcceptWord, decode, hc, decodeOperand, hm] at h
      exact .inr ⟨.inl rfl, startInstr_local_seq (i := .construct _) (by simp [Instr.op]) h⟩
    | gett =>
      simp only [fineAcceptWord, decode, hc, decodeOperand] at h
      exact .inr ⟨.inr (by decide), startInstr_local_seq (i := .gett _) (by simp [Instr.op]) h⟩
    | getrh =>
      simp only [fineAcceptWord, decode, hc, decodeOperand] at h
      exact .inr ⟨.inr (by decide), startInstr_local_seq (i := .getrh _) (by simp [Instr.op]) h⟩

/-- The rows of `IDLE`, for a request that has a step. -/
theorem fineAcceptWord_seq {w : ReqWord} {s t : State} (h : fineAcceptWord w s = .next t) :
    (t.seq = .acq ↔
      (w.toNat / 256 = 1 ∧ 1 ≤ w.toNat % 256 ∧ w.toNat % 256 ≤ 6) ∨
        (w.toNat / 256 = 2 ∧ 1 ≤ w.toNat % 256 ∧ w.toNat % 256 ≤ 15) ∨
        (3 ≤ w.toNat / 256 ∧ w.toNat / 256 ≤ 10)) ∧
      (t.seq ≠ .acq → t.seq = .idle) := by
  obtain ⟨op, hcode, hs⟩ | ⟨hop, hidle⟩ := fineAcceptWord_next h
  · rw [← catalog_ne_none_iff hcode s.cfg]
    obtain ⟨_, _, ⟨hk, rfl⟩ | ⟨c, hk, rfl⟩⟩ := startOperation_next hs <;> simp [hk]
  · refine ⟨iff_of_false (by simp [hidle]) ?_, fun _ => hidle⟩
    omega

/-- Settles O20, row by row: the rows of `IDLE` by what acceptance comes to, the others by the law of the phase. -/
theorem sequencerFollowsTable : Obligations.SequencerFollowsTable := by
  intro s t h
  have hstep (hs : s.seq ≠ .idle) : t = seqStep s := by
    rw [fineStep_busy hs] at h
    simpa using h.symm
  refine ⟨fun hs => ?idle, fun hs => ?acq, fun hs => ?write, fun hs => ?read, fun hs => ?rel, fun hs => ?delay,
    fun hs => ?resp⟩
  case idle =>
    cases hr : s.ports.requests with
    | nil =>
      obtain rfl : s = t := by simpa [fineStep_waiting hs hr] using h
      simp [hs]
    | cons w rest =>
      rw [fineStep_request hs hr] at h
      simpa using fineAcceptWord_seq h
  all_goals obtain rfl := hstep (by simp [hs])
  case acq =>
    rw [seqStep_acq hs]
    obtain ⟨hg, ht⟩ | ⟨hsh, hg, ht⟩ := stepAcq_cases s <;> rw [ht] <;> simp_all [State.channelGranted]
  case write =>
    rw [seqStep_write hs, stepWrite_eq, afterWrite_eq]
    split <;> simp_all
  case read => rw [seqStep_read hs, stepRead_eq]
  case rel =>
    rw [seqStep_rel hs, ← hasDelay_iff]
    obtain ⟨hop, hout, ht⟩ | ⟨hnot, ht⟩ := stepRel_cases s <;> rw [ht]
    · simp [hop, hout]
    · simpa using hnot
  case delay =>
    rw [seqStep_delay hs]
    obtain ⟨hdone, ht⟩ | ⟨hdone, ht⟩ := stepDelay_cases s <;> simp [ht, hdone, hs]
  case resp =>
    rw [seqStep_resp hs]
    obtain ⟨_, _, hidle, _⟩ := stepResp_responds s
    exact hidle

end Sys2Proof.Machine
end

section
/-! How a step ends (R91, R148), and the one transaction it makes (R52, R84). -/

namespace Sys2Proof.Machine

theorem Accepted.of_fineAcceptWord {w : ReqWord} {rest : List ReqWord} {s u : State}
    (hr : s.ports.requests = w :: rest) (h : fineAcceptWord w s.takeRequest = .next u) : Accepted s u := by
  unfold fineAcceptWord at h
  split at h
  case h_1 i hd => exact startInstr_takeRequest hr hd h
  case h_2 => exact .of_startOperation h
  all_goals cases h

/-- A step that has a request to take accepts it, and runs the sequencer from there. -/
theorem step_accepts {s t : State} (hi : s.seq = .idle) (hr : s.ports.requests ≠ []) (h : step s = .next t) :
    ∃ u, Accepted s u ∧ t = advance maxSteps u := by
  obtain ⟨w, rest, hreq⟩ := List.exists_cons_of_ne_nil hr
  rw [step_request hi hreq, acceptWord_eq_fine] at h
  obtain ⟨u, hu, rfl⟩ := mapNext_eq_next h
  exact ⟨u, .of_fineAcceptWord hreq hu, rfl⟩

/-- Acceptance answers at once, or latches an operation without an event (R75, R76). -/
theorem Accepted.answers_or_latches {s u : State} (h : Accepted s u) :
    (u.seq = .idle ∧ ∃ r p, u.ports.trace = s.ports.trace ++ [.response r p]) ∨
      (u.seq = .acq ∧ u.cfg = s.cfg ∧ u.ports.trace = s.ports.trace) := by
  cases h with
  | construct | answered => exact .inl ⟨rfl, _, _, rfl⟩
  | latched => exact .inr ⟨rfl, rfl, rfl⟩

/-- A step with work to do answers a request at once, or runs an operation from where it is in flight. -/
theorem step_answers_or_runs {s t : State} (h : step s = .next t) (hwork : s.seq ≠ .idle ∨ s.ports.requests ≠ []) :
    (t.seq = .idle ∧ ∃ r p, t.ports.trace = s.ports.trace ++ [.response r p]) ∨
      ∃ u, u.seq ≠ .idle ∧ u.cfg = s.cfg ∧ u.ports.trace = s.ports.trace ∧ t = advance maxSteps u := by
  by_cases hi : s.seq = .idle
  · obtain ⟨u, hu, rfl⟩ := step_accepts hi (hwork.resolve_left (not_not.2 hi)) h
    obtain ⟨hui, r, p, ht⟩ | ⟨hua, hc, ht⟩ := hu.answers_or_latches
    · rw [advance_idle hui]
      exact .inl ⟨hui, r, p, ht⟩
    · exact .inr ⟨u, by simp [hua], hc, ht, rfl⟩
  · rw [step_busy hi] at h
    exact .inr ⟨s, hi, rfl, rfl, by simpa using h.symm⟩

/-- R91: how a run of the sequencer ends, from any phase but `IDLE`. -/
theorem advance_maxSteps_outcome {s : State} (hs : s.seq ≠ .idle) : RunOutcome s (advance maxSteps s) :=
  advance_outcome maxSteps s hs (s.seq.ahead_le.trans (by decide))

/-- Settles O23: a request is answered at once, or an operation runs to one of R91's ends. -/
theorem stepRespondsOrIsHeld : Obligations.StepRespondsOrIsHeld := by
  intro s t h hwork
  obtain ⟨hidle, r, p, ht⟩ | ⟨u, hu, hcfg, htrace, rfl⟩ := step_answers_or_runs h hwork
  · exact .inl ⟨hidle, [], r, p, by simpa using ht, by simp⟩
  · rw [← hcfg, ← htrace]
    obtain ⟨hidle, es, he, before, r, p, rfl, hno⟩ | hdelay | ⟨hacq, hshared, _, heq⟩ := advance_maxSteps_outcome hu
    · exact .inl ⟨hidle, before, r, p, by simpa using he, hno⟩
    · exact .inr (.inr hdelay)
    · rw [heq]
      exact .inr (.inl ⟨hacq, hshared, rfl⟩)

/-! ### The events of a transaction -/

/-- After the release of the channel a run makes no transport event (R84). -/
theorem seqStep_adds_no_transport {s : State} (hs : s.seq.ahead ≤ 2) :
    AddsOnly (·.isTransport = false) s (seqStep s) := by
  cases hq : s.seq with
  | acq | write | read | rel => simp [hq, Phase.ahead] at hs
  | idle => rw [seqStep_idle hq]; exact .of_trace_eq rfl
  | delay =>
    rw [seqStep_delay hq]
    obtain ⟨_, h⟩ | ⟨_, h⟩ := stepDelay_cases s <;> rw [h]
    · exact .of_trace_append rfl rfl
    · exact .of_trace_eq rfl
  | resp =>
    rw [seqStep_resp hq]
    obtain ⟨_, _, _, h⟩ := stepResp_responds s
    exact .of_trace_append h rfl

theorem advance_adds_no_transport (n : Nat) {s : State} (hs : s.seq.ahead ≤ 2) :
    AddsOnly (·.isTransport = false) s (advance n s) := by
  have h : (advance n s).seq.ahead ≤ 2 ∧ AddsOnly (·.isTransport = false) s (advance n s) := by
    refine advance_induction (P := fun t => t.seq.ahead ≤ 2 ∧ AddsOnly (·.isTransport = false) s t) ?_ n
      ⟨hs, .of_trace_eq rfl⟩
    rintro t ⟨ht, hadd⟩
    refine ⟨?_, hadd.trans (seqStep_adds_no_transport ht)⟩
    obtain h | h := seqStep_ahead t
    · rwa [h]
    · omega
  exact h.2

/-- The events between two states end a transaction: the release, and then no transport event. -/
def Releases (s t : State) : Prop :=
  ∃ rest : List Event, t.ports.trace = s.ports.trace ++ .release :: rest ∧ ∀ e ∈ rest, e.isTransport = false

theorem advance_rel_releases (n : Nat) {s : State} (hs : s.seq = .rel) : Releases s (advance (n + 1) s) := by
  rw [advance_rel hs]
  have hseq : (stepRel s).seq.ahead ≤ 2 := by
    obtain ⟨_, _, h⟩ | ⟨_, h⟩ := stepRel_cases s <;> rw [h] <;> simp [Phase.ahead]
  obtain ⟨fs, hf, hfs⟩ : ∃ fs : List Event, (stepRel s).ports.trace = s.ports.trace ++ .release :: fs ∧
      ∀ e ∈ fs, e.isTransport = false := by
    obtain ⟨_, _, h⟩ | ⟨_, h⟩ := stepRel_cases s <;> rw [h]
    · exact ⟨[.delayStart s.cfg.tDelay], by simp, by simp [Event.isTransport]⟩
    · exact ⟨[], rfl, by simp⟩
  obtain ⟨es, he, hes⟩ := advance_adds_no_transport n hseq
  exact ⟨fs ++ es, by rw [he, hf]; simp, List.forall_mem_append.2 ⟨hfs, hes⟩⟩

theorem stepWrite_trace (s : State) :
    ∃ w : Event, w.isWrite = true ∧ (stepWrite s).ports.trace = s.ports.trace ++ [w] :=
  ⟨_, rfl, rfl⟩

theorem stepRead_trace (s : State) :
    ∃ r : Event, r.isRead = true ∧ (stepRead s).ports.trace = s.ports.trace ++ [r] :=
  ⟨_, rfl, rfl⟩

theorem stepRead_seq (s : State) : (stepRead s).seq = .rel := rfl

/-- From `WRITE` on: the write, at most one read, and the release (R84). -/
theorem advance_write_events {s : State} (hs : s.seq = .write) :
    ∃ (w : Event) (rd rest : List Event),
      (advance 6 s).ports.trace = s.ports.trace ++ w :: rd ++ .release :: rest ∧ w.isWrite = true ∧
      rd.length ≤ 1 ∧ (∀ e ∈ rd, e.isRead = true) ∧ ∀ e ∈ rest, e.isTransport = false := by
  obtain ⟨w, hw, hwrite⟩ := stepWrite_trace s
  rw [advance_write hs]
  obtain ⟨hnext, _⟩ | ⟨hnext, _⟩ := afterWrite_cases s
  · obtain ⟨r, hr, hread⟩ := stepRead_trace (stepWrite s)
    obtain ⟨rest, he, hrest⟩ := advance_rel_releases 3 (stepRead_seq (stepWrite s))
    rw [advance_read hnext, he, hread, hwrite]
    exact ⟨w, [r], rest, by simp, hw, by simp, by simpa using hr, hrest⟩
  · obtain ⟨rest, he, hrest⟩ := advance_rel_releases 4 (s := stepWrite s) hnext
    rw [he, hwrite]
    exact ⟨w, [], rest, rfl, hw, by simp, by simp, hrest⟩

/-- The events between two states are no transport event at all, or one transaction. -/
def AtMostOneTransaction (s t : State) : Prop :=
  ∃ es : List Event, t.ports.trace = s.ports.trace ++ es ∧ ((∀ e ∈ es, e.isTransport = false) ∨ IsTransaction es)

theorem AtMostOneTransaction.of_adds_none {s t : State} (h : AddsOnly (·.isTransport = false) s t) :
    AtMostOneTransaction s t := by
  obtain ⟨es, he, hes⟩ := h
  exact ⟨es, he, .inl hes⟩

theorem AtMostOneTransaction.of_response {s t : State} {r : Result} {p : Payload}
    (h : t.ports.trace = s.ports.trace ++ [.response r p]) : AtMostOneTransaction s t :=
  .of_adds_none (.of_trace_append h rfl)

/-- R77: under `SHARED_CHANNEL` a run is held in `ACQ` while the channel is not free. -/
theorem advance_acq_held {n : Nat} {s : State} (hs : s.seq = .acq) (hshared : s.cfg.sharedChannel = true)
    (hfree : s.ports.channelFree = false) : advance (n + 1) s = { s with ports := s.ports.takeChannel } := by
  have hstep : seqStep s = { s with ports := s.ports.takeChannel } := by
    rw [seqStep_acq hs]
    simp [stepAcq, State.channelGranted, State.askChannel, hshared, hfree]
  rw [advance_of_eq (by rw [hstep]), hstep]

theorem channelGranted_eq_false_iff (s : State) :
    s.channelGranted = false ↔ s.cfg.sharedChannel = true ∧ s.ports.channelFree = false := by
  simp [State.channelGranted]

/-- R84: from `ACQ` a run is held with no event, or makes one transaction. -/
theorem advance_acq_transaction {s : State} (hs : s.seq = .acq) : AtMostOneTransaction s (advance maxSteps s) := by
  cases hg : s.channelGranted with
  | false =>
    obtain ⟨hshared, hfree⟩ := (channelGranted_eq_false_iff s).1 hg
    rw [maxSteps, advance_acq_held hs hshared hfree]
    exact .of_adds_none (.of_trace_eq rfl)
  | true =>
    rw [maxSteps, advance_acq hs hg]
    obtain ⟨w, rd, rest, he, hw, hlen, hrd, hrest⟩ := advance_write_events (State.goto_seq _ .write)
    exact ⟨.acquire :: w :: rd ++ .release :: rest, by rw [he]; simp, .inr ⟨w, rd, rest, rfl, hw, hlen, hrd, hrest⟩⟩

theorem exec_transaction {i : Instr} {s t : State} (h : exec i s = .next t) : AtMostOneTransaction s t := by
  obtain ⟨_, ⟨_, _, _, rfl⟩ | ⟨_, ⟨_, _, rfl⟩ | ⟨_, _, rfl⟩ | ⟨op, c, _, _, rfl⟩⟩⟩ := exec_next h
  case inr.inr.inr => exact advance_acq_transaction (s := latchOperation op i.arg c s) rfl
  all_goals exact .of_response rfl

/-- Settles O47: a request is answered with no transport event or is latched, and only a run from `ACQ` makes one. -/
theorem oneTransactionPerInstruction : Obligations.OneTransactionPerInstruction := by
  rintro s t (⟨i, h⟩ | ⟨h, hseq⟩)
  · exact exec_transaction h
  · obtain ⟨u, rfl | hu, rfl⟩ := step_runs h
    · obtain hidle | hacq := hseq
      · rw [advance_idle hidle]
        exact AtMostOneTransaction.of_adds_none (.of_trace_eq rfl)
      · exact advance_acq_transaction hacq
    · obtain ⟨hidle, _, _, ht⟩ | ⟨hacq, _, ht⟩ := hu.answers_or_latches
      · rw [advance_idle hidle]
        exact AtMostOneTransaction.of_response ht
      · rw [← ht]
        exact advance_acq_transaction hacq

end Sys2Proof.Machine
end

section
/-! What the instructions do that are held, or whose write fails (R77, R84, R86, R103, R157). -/

namespace Sys2Proof.Machine

/-- Settles O33: the latched operation asks for the channel, and is held. -/
theorem sharedChannelHoldsOperation : Obligations.SharedChannelHoldsOperation := by
  intro i op s hop hidle hcon hshared hfree
  obtain ⟨cmd, hcmd⟩ := catalog_of_instr hop s.cfg
  refine ⟨cmd, hcmd, ?_⟩
  rw [exec_bus hop, runOperation_some hidle hcon hcmd, maxSteps,
    advance_acq_held (latchOperation_seq ..) (by simpa using hshared) (by simpa using hfree)]
  rfl

/-! ### The transaction of an instruction, up to its release -/

theorem Ports.afterCalls_one (p : Ports) : p.afterCalls 1 = p.takeAnswer := by
  simp [Ports.afterCalls, Ports.takeAnswer]

theorem Ports.afterCalls_two (p : Ports) : p.afterCalls 2 = p.takeAnswer.takeAnswer := by
  simp [Ports.afterCalls, Ports.takeAnswer, ← List.drop_one]

/-- The bus instruction of a ready engine at its release, with no read made (R78). -/
theorem exec_without_read {i : Instr} {op : BusOp} {s : State} (hop : i.op = .bus op) (hready : ReadyFor s)
    (hskip : readLength op = 0 ∨ (s.writeOutcome ≠ .success ∧ s.cfg.readAfterFailedWrite = false)) :
    ∃ cmd, catalog s.cfg op i.arg = some cmd ∧
      exec i s = .next (advance 5 { s with
        chanHeld := true
        seq := .rel
        lat := { s.lat with op := op, arg := i.arg, cmd := cmd, rlen := readLength op, wout := s.writeOutcome }
        ports := ((s.ports.afterAcquire s.cfg.sharedChannel).afterCalls 1).send
          [.acquire, .write (busAddress s.regs.addr) (cmdBytes cmd) s.writeOutcome] }) := by
  obtain ⟨cmd, hcmd, hexec⟩ := exec_ready hop hready
  refine ⟨cmd, hcmd, ?_⟩
  rw [hexec, stepWrite_eq, afterWrite, if_neg]
  · simp [State.writeOutcome, Ports.emit_eq_send, Ports.afterCalls_one]
  · rintro ⟨hrlen, hgo⟩
    obtain hzero | ⟨hfail, hno⟩ := hskip
    · exact hrlen hzero
    · simp [hno] at hgo
      exact hfail hgo

/-- The bus instruction of a ready engine at its release, with the read made (R78, R80). -/
theorem exec_with_read {i : Instr} {op : BusOp} {s : State} (hop : i.op = .bus op) (hready : ReadyFor s)
    (hreads : readLength op ≠ 0) (hgo : s.writeOutcome = .success ∨ s.cfg.readAfterFailedWrite = true) :
    ∃ cmd, catalog s.cfg op i.arg = some cmd ∧
      exec i s = .next (advance 4 { s with
        chanHeld := true
        seq := .rel
        lat := ⟨op, i.arg, cmd, readLength op, s.writeOutcome, s.readOutcome (readLength op).toNat,
          s.readAnswer.data.take bufLen⟩
        ports := ((s.ports.afterAcquire s.cfg.sharedChannel).afterCalls 2).send
          [.acquire, .write (busAddress s.regs.addr) (cmdBytes cmd) s.writeOutcome,
            .read (busAddress s.regs.addr) (readLength op).toNat s.readAnswer.outcome s.readAnswer.data] }) := by
  obtain ⟨cmd, hcmd, hexec⟩ := exec_ready hop hready
  refine ⟨cmd, hcmd, ?_⟩
  rw [hexec, stepWrite_eq, afterWrite, if_pos ⟨hreads, by simpa [State.writeOutcome] using hgo⟩,
    advance_read rfl, stepRead_eq]
  simp [State.writeOutcome, State.readAnswer, State.readOutcome, Ports.emit_eq_send, Ports.afterCalls_two]

/-! ### The release and the ends -/

theorem advance_rel_delay {n : Nat} {s : State} (hs : s.seq = .rel) (hop : hasDelay s.lat.op = true)
    (hdue : s.lat.wout = .success ∨ s.cfg.delayOnFailedWrite = true) :
    advance (n + 1) s = advance n
      { s with chanHeld := false, seq := .delay, ports := s.ports.send [.release, .delayStart s.cfg.tDelay] } := by
  rw [advance_rel hs]
  obtain ⟨_, _, h⟩ | ⟨hnot, _⟩ := stepRel_cases s
  · simp [h, Ports.emit_eq_send]
  · exact absurd ⟨hop, hdue⟩ hnot

theorem advance_rel_resp {n : Nat} {s : State} (hs : s.seq = .rel)
    (hnot : ¬ (hasDelay s.lat.op = true ∧ (s.lat.wout = .success ∨ s.cfg.delayOnFailedWrite = true))) :
    advance (n + 2) s = stepResp { s with chanHeld := false, seq := .resp, ports := s.ports.send [.release] } := by
  rw [advance_rel hs]
  obtain ⟨hop, hdue, _⟩ | ⟨_, h⟩ := stepRel_cases s
  · exact absurd ⟨hop, hdue⟩ hnot
  · rw [h, advance_resp rfl, Ports.emit_eq_send]

/-- R83, R151: the outcome of a failed write is the result. -/
theorem stepResp_of_failed_write {s : State} (h : s.lat.wout ≠ .success) :
    stepResp s = fail (resultOf s.lat.wout) s := by
  have hc := combined_of_failed_write h
  rw [stepResp_of_failure (hc ▸ h), hc]

/-- R103: an operation that reads nothing answers the outcome of its write, with zero payload, and commits nothing. -/
theorem stepResp_of_write_only {s : State} (hrlen : s.lat.rlen = 0) (hm : s.lat.op ≠ .meas) (hf : s.lat.op ≠ .fetch)
    (hr : s.lat.op ≠ .rdstat) : stepResp s = fail (resultOf s.lat.wout) s := by
  by_cases h : s.lat.wout = .success
  · rw [stepResp_of_success (combined_of_no_read h hrlen), commitAndSucceed_of_write_only hm hf hr, h]
    rfl
  · exact stepResp_of_failed_write h

/-- Settles O31: after the release the timer is asked, and says no. -/
theorem delayedOperationIsHeld : Obligations.DelayedOperationIsHeld := by
  intro i op s hop hdelayed hready hdue htimer
  have hd : hasDelay op = true := (hasDelay_iff op).2 hdelayed
  have hrlen : readLength op = 0 := readLength_of_hasDelay hd
  obtain ⟨cmd, hcmd, hexec⟩ := exec_without_read hop hready (.inl hrlen)
  refine ⟨cmd, hcmd, ?_⟩
  rw [hexec, advance_rel_delay rfl hd hdue,
    advance_delay_held rfl (by simpa [Ports.afterCalls_one] using htimer), hrlen]
  simp [busAddress, cmdBytes]

/-- Settles O32: nothing is read, so the write alone decides, and an operation with the forced delay commits nothing. -/
theorem delayEndsWithWriteOutcome : Obligations.DelayEndsWithWriteOutcome := by
  intro s hs hop hrlen
  rw [step_busy (by simp [hs]), maxSteps]
  refine ⟨fun hdone => ?_, fun hdone => by rw [advance_delay_held hs hdone]⟩
  obtain ⟨hm, hf, hr⟩ : s.lat.op ≠ .meas ∧ s.lat.op ≠ .fetch ∧ s.lat.op ≠ .rdstat := by
    obtain h | h := hop <;> simp [h]
  have hend := stepResp_of_write_only (s := { s with seq := .resp, ports := s.ports.takeTimer.emit .delayDone })
    hrlen hm hf hr
  rw [advance_delay_done hs hdone, advance_resp rfl, hend]
  simp [fail, State.emit, State.goto, Ports.emit_eq_send]

theorem readLength_of_reading {op : BusOp} (h : op = .meas ∨ op = .fetch ∨ op = .rdstat) :
    (readLength op).toNat = (if op = .rdstat then 3 else 6) ∧ hasDelay op = false := by
  obtain rfl | rfl | rfl := h <;> exact ⟨rfl, rfl⟩

/-- Settles O35: the read is made, but the combined outcome is that of the failed write. -/
theorem failedWriteOutranksRead : Obligations.FailedWriteOutranksRead := by
  intro i op s hop hreading hready hfail hgo
  obtain ⟨hrlen, hd⟩ := readLength_of_reading hreading
  have hreads : readLength op ≠ 0 := (rlen_ne_zero_iff _).2 (by rw [hrlen]; split <;> omega)
  obtain ⟨cmd, hcmd, hexec⟩ := exec_with_read hop hready hreads (.inr hgo)
  refine ⟨cmd, _, hcmd, hexec, ?_⟩
  rw [advance_rel_resp rfl (by simp [hd]), stepResp_of_failed_write hfail, hrlen]
  exact ⟨rfl, rfl, rfl, rfl, by simp [Ports.emit_eq_send, busAddress, cmdBytes]⟩

end Sys2Proof.Machine
end

section
/-! Every operation ends: the fairness of the timer and of the other masters carries an operation through its two holds
(R52, R86, R91, R187, D13, D20). -/

namespace Sys2Proof.Machine

theorem step_delay_done {s : State} (hs : s.seq = .delay) (hdone : s.ports.timerDone = true) :
    ∃ t r p, step s = .next t ∧ t.seq = .idle ∧ t.ports.trace = s.ports.trace ++ [.delayDone, .response r p] := by
  obtain ⟨r, p, hidle, ht⟩ := stepResp_responds { s with seq := .resp, ports := s.ports.takeTimer.emit .delayDone }
  refine ⟨_, r, p, step_busy (by simp [hs]), ?_⟩
  rw [maxSteps, advance_delay_done hs hdone, advance_resp rfl]
  exact ⟨hidle, by simpa using ht⟩

theorem step_delay_held {s : State} (hs : s.seq = .delay) (hdone : s.ports.timerDone = false) :
    step s = .next { s with ports := s.ports.takeTimer } := by
  rw [step_busy (by simp [hs]), maxSteps, advance_delay_held hs hdone]

/-- Settles O55, by induction on how many questions there are to the timer's yes. -/
theorem delayEventuallyEnds : Obligations.DelayEventuallyEnds := by
  intro s hs
  obtain ⟨k, hk⟩ := s.ports.timer_fair
  induction k generalizing s with
  | zero =>
    rw [Ports.timerAnswer_zero] at hk
    obtain ⟨t, r, p, hstep, ht⟩ := step_delay_done hs hk
    exact ⟨1, t, r, p, stepRun_succ hstep, ht⟩
  | succ k ih =>
    cases hdone : s.ports.timerDone with
    | true =>
      obtain ⟨t, r, p, hstep, ht⟩ := step_delay_done hs hdone
      exact ⟨1, t, r, p, stepRun_succ hstep, ht⟩
    | false =>
      rw [Ports.timerAnswer_succ] at hk
      obtain ⟨n, t, r, p, hrun, ht⟩ := ih { s with ports := s.ports.takeTimer } hs hk
      exact ⟨n + 1, t, r, p, by rw [stepRun_succ (step_delay_held hs hdone), hrun], ht⟩

/-- From `t` some number of steps ends in `IDLE`, and the events since `s` are one response at the end and no other. -/
def EventuallyResponds (s t : State) : Prop :=
  ∃ (n : Nat) (u : State) (es : List Event), stepRun n t = .next u ∧ u.seq = .idle ∧
    u.ports.trace = s.ports.trace ++ es ∧ EndsWithOneResponse es

theorem EventuallyResponds.of_step {s t u : State} (h : step t = .next u) (hu : EventuallyResponds s u) :
    EventuallyResponds s t := by
  obtain ⟨n, v, es, hrun, hv⟩ := hu
  exact ⟨n + 1, v, es, by rw [stepRun_succ h, hrun], hv⟩

theorem EventuallyResponds.of_trace_eq {s u t : State} (h : u.ports.trace = s.ports.trace)
    (hu : EventuallyResponds u t) : EventuallyResponds s t := by
  unfold EventuallyResponds
  rw [← h]
  exact hu

theorem EventuallyResponds.of_delay {s t : State} {es : List Event} (hs : t.seq = .delay)
    (ht : t.ports.trace = s.ports.trace ++ es) (hes : ∀ e ∈ es, e.isResponse = false) : EventuallyResponds s t := by
  obtain ⟨n, u, r, p, hrun, hidle, hu⟩ := delayEventuallyEnds t hs
  have hno : ∀ e ∈ es ++ [Event.delayDone], e.isResponse = false :=
    List.forall_mem_append.2 ⟨hes, by simp [Event.isResponse]⟩
  refine ⟨n, u, es ++ [Event.delayDone] ++ [Event.response r p], hrun, hidle, ?_,
    es ++ [Event.delayDone], r, p, rfl, hno⟩
  simp [hu, ht]

/-- A run that is not held in `ACQ` has responded, or will after its delay. -/
theorem RunOutcome.responds_or_held {s t : State} (h : RunOutcome s t) :
    EventuallyResponds s t ∨ (s.seq = .acq ∧ s.cfg.sharedChannel = true ∧ s.ports.channelFree = false ∧
      t = { s with ports := s.ports.takeChannel }) := by
  obtain ⟨hidle, es, ht, hes⟩ | ⟨hdelay, es, ht, hes⟩ | hheld := h
  · exact .inl ⟨0, t, es, rfl, hidle, ht, hes⟩
  · exact .inl (.of_delay hdelay ht hes)
  · exact .inr hheld

/-- D13: a run that is held in `ACQ` goes on once the channel is free; by induction on how many questions there are
to it. -/
theorem RunOutcome.eventuallyResponds (k : Nat) {s t : State} (h : RunOutcome s t)
    (hk : s.cfg.sharedChannel = true → s.ports.channelAnswer k = true) : EventuallyResponds s t := by
  induction k generalizing s t with
  | zero =>
    obtain hres | ⟨_, hshared, hfree, _⟩ := h.responds_or_held
    · exact hres
    · simp [← Ports.channelAnswer_zero, hk hshared] at hfree
  | succ k ih =>
    obtain hres | ⟨hacq, hshared, _, rfl⟩ := h.responds_or_held
    · exact hres
    · have hbusy : s.seq ≠ .idle := by simp [hacq]
      have hlater := ih (s := { s with ports := s.ports.takeChannel }) (advance_maxSteps_outcome hbusy)
        fun _ => by rw [← Ports.channelAnswer_succ, hk hshared]
      have hstep := step_busy (s := { s with ports := s.ports.takeChannel }) hbusy
      exact (hlater.of_step hstep).of_trace_eq rfl

theorem eventuallyResponds_advance {s : State} (hs : s.seq ≠ .idle) (hfair : ChannelFair s) :
    EventuallyResponds s (advance maxSteps s) := by
  have hfree : ∃ k, s.cfg.sharedChannel = true → s.ports.channelAnswer k = true := by
    by_cases hshared : s.cfg.sharedChannel = true
    · obtain ⟨k, hk⟩ := hfair hshared
      exact ⟨k, fun _ => hk⟩
    · exact ⟨0, fun h => absurd h hshared⟩
  obtain ⟨k, hk⟩ := hfree
  exact (advance_maxSteps_outcome hs).eventuallyResponds k hk

/-- Settles O56: an operation in flight, and one an instruction has latched, run to an outcome that comes to its response;
the other instructions have responded. -/
theorem acceptedOperationResponds : Obligations.AcceptedOperationResponds := by
  refine ⟨fun s hs hfair => ?_, fun i s t h hfair => ?_⟩
  · exact (eventuallyResponds_advance hs hfair).of_step (step_busy hs)
  · obtain ⟨_, ⟨_, _, _, rfl⟩ | ⟨_, ⟨_, _, rfl⟩ | ⟨_, _, rfl⟩ | ⟨op, c, _, _, rfl⟩⟩⟩ := exec_next h
    case inr.inr.inr => exact eventuallyResponds_advance (s := latchOperation op i.arg c s) (by simp) hfair
    all_goals exact ⟨0, _, [_], rfl, rfl, rfl, [], _, _, rfl, by simp⟩

end Sys2Proof.Machine
end

section
/-! The reading instructions whose write and read both succeed: the reply is committed in the step that answers (R87, R93,
R132). -/

namespace Sys2Proof.Machine

/-! ### The converter on the bytes of a buffer (R41, R132) -/

theorem convTemp_of_bytes (b : Buf) :
    convTemp b = BitVec.ofInt 25 (175 * ((b.b0.toNat * 256 + b.b1.toNat : Nat) : Int) - 2949075) := by
  have hraw : b.rawTemp.toNat = b.b0.toNat * 256 + b.b1.toNat := append_toNat b.b0 b.b1
  rw [← hraw]
  rfl

theorem convRh_of_bytes (b : Buf) : convRh b = BitVec.ofNat 23 (100 * (b.b3.toNat * 256 + b.b4.toNat)) := by
  have hraw : b.rawRh.toNat = b.b3.toNat * 256 + b.b4.toNat := append_toNat b.b3 b.b4
  rw [← hraw]
  rfl

/-! ### A successful read -/

/-- R80, R81: a successful answer of the length asked for counts as a success. -/
theorem classifyRead_of_length {n : Nat} {d : List Byte} (h : d.length = n) :
    classifyRead n ⟨.success, d⟩ = .success := by
  simp [classifyRead, h]

/-- A reading instruction of a ready engine, where the write succeeds and the reply has the length asked for, comes to its
release and commits the reply (R84, R87). -/
theorem exec_reading_success {i : Instr} {op : BusOp} {s : State} {d : List Byte} (hop : i.op = .bus op)
    (hready : ReadyFor s) (hreads : readLength op ≠ 0) (hwrite : s.writeOutcome = .success)
    (hread : s.readAnswer = ⟨.success, d⟩) (hlen : d.length = (readLength op).toNat) :
    ∃ cmd, catalog s.cfg op i.arg = some cmd ∧
      exec i s = .next (commitAndSucceed { s with
        chanHeld := false
        seq := .resp
        lat := ⟨op, i.arg, cmd, readLength op, .success, .success, d⟩
        ports := ((s.ports.afterAcquire s.cfg.sharedChannel).afterCalls 2).send
          [.acquire, .write (busAddress s.regs.addr) (cmdBytes cmd) .success,
            .read (busAddress s.regs.addr) (readLength op).toNat .success d, .release] }) := by
  obtain ⟨cmd, hcmd, hexec⟩ := exec_with_read hop hready hreads (.inl hwrite)
  have hdelay : hasDelay op ≠ true := fun h => hreads (readLength_of_hasDelay h)
  have hkept : d.take bufLen = d := List.take_of_length_le (hlen ▸ readLength_le op)
  have hrout : s.readOutcome (readLength op).toNat = .success := by
    rw [State.readOutcome, hread, classifyRead_of_length hlen]
  refine ⟨cmd, hcmd, ?_⟩
  rw [hexec, advance_rel_resp rfl (fun ⟨h, _⟩ => hdelay h), hwrite, hrout, hread,
    stepResp_of_success (combined_of_read rfl hreads), hkept, Ports.send_send]
  rfl

/-! ### The measurement commit -/

/-- R59, R93: a measurement operation commits its reply and answers no payload. -/
theorem commitAndSucceed_of_measurement {s : State} (h : s.lat.op = .meas ∨ s.lat.op = .fetch) :
    commitAndSucceed s = succeed 0 (commitMeasurement s) := by
  obtain h | h := h <;> rw [commitAndSucceed, h] <;> rfl

theorem readLength_of_measurement {op : BusOp} (h : op = .meas ∨ op = .fetch) : readLength op = 6 := by
  obtain rfl | rfl := h <;> rfl

/-- R93, R132: what a six-byte reply is committed to. -/
theorem commitMeasurement_of_reply {s : State} {d0 d1 d2 d3 d4 d5 : Byte}
    (h : s.lat.rdata = [d0, d1, d2, d3, d4, d5]) :
    commitMeasurement s = { s with regs := { s.regs with
      buf := ⟨d0, d1, d2, d3, d4, d5⟩
      tempNum := BitVec.ofInt 25 (175 * ((d0.toNat * 256 + d1.toNat : Nat) : Int) - 2949075)
      rhNum := BitVec.ofNat 23 (100 * (d3.toNat * 256 + d4.toNat)) } } := by
  have hbuf : bufOfReply s.lat.rdata = ⟨d0, d1, d2, d3, d4, d5⟩ := by
    rw [h]
    rfl
  simp only [commitMeasurement, hbuf, convTemp_of_bytes, convRh_of_bytes]

/-- Settles O28: the operation comes to its release with both outcomes `Success`, and its commit is the converter's
formulas on the bytes of the reply. -/
theorem measurementCommitsReply : Obligations.MeasurementCommitsReply := by
  intro i op s d0 d1 d2 d3 d4 d5 hop hmeas hready hwrite hread
  have hrlen := readLength_of_measurement hmeas
  obtain ⟨cmd, hcmd, hexec⟩ := exec_reading_success hop hready (by simp [hrlen]) hwrite hread (by simp [hrlen])
  refine ⟨cmd, hcmd, ?_⟩
  rw [hexec, commitAndSucceed_of_measurement hmeas, commitMeasurement_of_reply rfl, hrlen]
  simp [succeed, State.emit, State.goto, Ports.emit_eq_send, busAddress, cmdBytes]

end Sys2Proof.Machine
end

section
/-! The write-only instructions of a ready engine, run to their response (R86, R103, R104). -/

namespace Sys2Proof.Machine

theorem fail_eq (r : Result) (s : State) :
    fail r s = { s with seq := .idle, ports := s.ports.send [.response r 0] } := rfl

theorem readLength_of_write_only {op : BusOp} (hm : op ≠ .meas) (hf : op ≠ .fetch) (hr : op ≠ .rdstat) :
    readLength op = 0 := by
  simp [readLength_eq, hm, hf, hr]

/-- Settles O30: the release leads to the response, through the delay where one is due; nothing was read, so the outcome of
the write is the result. -/
theorem writeOnlyReportsOutcome : Obligations.WriteOnlyReportsOutcome := by
  intro i op s hop hm hf hr hready
  have hrlen := readLength_of_write_only hm hf hr
  obtain ⟨cmd, hcmd, hexec⟩ := exec_without_read hop hready (.inl hrlen)
  refine ⟨cmd, hcmd, fun ⟨hdelayed, hdue⟩ htimer => ?_, fun hnot => ?_⟩
  · rw [hexec, advance_rel_delay rfl ((hasDelay_iff op).2 hdelayed) hdue,
      advance_delay_done rfl (by simpa [Ports.afterCalls_one] using htimer), advance_resp rfl,
      stepResp_of_write_only hrlen hm hf hr, fail_eq, hrlen]
    simp [Ports.emit_eq_send, busAddress, cmdBytes]
  · rw [hexec, advance_rel_resp rfl (by rwa [hasDelay_iff]),
      stepResp_of_write_only hrlen hm hf hr, fail_eq, hrlen]
    simp [busAddress, cmdBytes]

end Sys2Proof.Machine
end

section
/-! RDSTAT on a ready engine: the status commit and its payload (R59, R127, R128). -/

namespace Sys2Proof.Machine

/-- R127: `STATUS` and `HEATER_ON` are committed first, and the payload is built from what was just written. -/
theorem commitAndSucceed_of_rdstat {s : State} (h : s.lat.op = .rdstat) :
    commitAndSucceed s =
      succeed (statusPayload (commitStatus s).regs.heaterOn (commitStatus s).regs.status) (commitStatus s) := by
  rw [commitAndSucceed, h]
  rfl

/-- R127, R128: the first two bytes of a three-byte reply are the status, high byte first; the checksum byte is dropped. -/
theorem commitStatus_of_reply {s : State} {d0 d1 d2 : Byte} (h : s.lat.rdata = [d0, d1, d2]) :
    commitStatus s = { s with regs := { s.regs with
      status := d0 ++ d1
      heaterOn := (d0 ++ d1).getLsbD 13 } } := by
  have hstatus : statusOfReply s.lat.rdata = d0 ++ d1 := by
    rw [h]
    rfl
  rw [commitStatus, hstatus]
  rfl

/-- Settles O29: the operation comes to its release with both outcomes `Success`, and its commit takes the status from the
first two bytes of the reply. -/
theorem rdstatCommitsReply : Obligations.RdstatCommitsReply := by
  intro s arg d0 d1 d2 hready hwrite hread
  have hrlen : readLength .rdstat = 3 := rfl
  obtain ⟨cmd, hcmd, hexec⟩ :=
    exec_reading_success (i := .rdstat arg) rfl hready (by simp [hrlen]) hwrite hread (by simp [hrlen])
  obtain rfl : s.cfg.cmdRdstat = cmd := Option.some.inj hcmd
  rw [hexec, commitAndSucceed_of_rdstat rfl, commitStatus_of_reply rfl, statusPayload_eq, hrlen]
  simp [succeed, State.emit, State.goto, Ports.emit_eq_send, busAddress, cmdBytes, Instr.arg]

end Sys2Proof.Machine
end

section
/-! The converter's numerators and the floating view of a reading (R132 to R137). -/

namespace Sys2Proof.Machine

/-! ### The converter (R132, R133, R135) -/

/-- Settles O49: both registers hold the exact numerators of the raw words, which are the buffer's bytes, high byte first. -/
theorem converterIsExact : Obligations.ConverterIsExact := by
  intro b
  have htemp : b.rawTemp.toNat = b.b0.toNat * 256 + b.b1.toNat := append_toNat b.b0 b.b1
  have hrh : b.rawRh.toNat = b.b3.toNat * 256 + b.b4.toNat := append_toNat b.b3 b.b4
  rw [convTemp_toInt, convRh_toNat, htemp, hrh]
  exact ⟨rfl, rfl⟩

/-- Settles O50: the exact numerators of 16-bit raw words; the sign changes between 16851 and 16852. -/
theorem converterRanges : Obligations.ConverterRanges := by
  intro b
  have htemp := b.rawTemp.isLt
  have hrh := b.rawRh.isLt
  rw [convTemp_toInt, convRh_toNat]
  refine ⟨?_, ?_, ?_, ?_, ?_⟩ <;> omega

theorem tempNumerator_eq (raw : Nat) : tempNumerator raw = -45 * 65535 + 175 * raw := by
  simp only [tempNumerator, tSpan, tOffset, divisor]
  omega

theorem rhNumerator_eq (raw : Nat) : rhNumerator raw = 100 * raw := rfl

/-- R135 (c): the raw temperature word is the exact quotient of its numerator. -/
theorem rawOfTempNum_convTemp (b : Buf) :
    (rawOfTempNum (convTemp b).toInt).num = b.rawTemp.toNat * (rawOfTempNum (convTemp b).toInt).den := by
  simp only [rawOfTempNum, convTemp_toInt, tSpan, tOffset, divisor]
  omega

/-- R135 (c): the raw humidity word is the exact quotient of its numerator. -/
theorem rawOfRhNum_convRh (b : Buf) :
    (rawOfRhNum (convRh b).toNat).num = b.rawRh.toNat * (rawOfRhNum (convRh b).toNat).den := by
  simp only [rawOfRhNum, convRh_toNat, rhSpan]
  omega

theorem rawTemp_of_convTemp_eq {b c : Buf} (h : convTemp b = convTemp c) : b.rawTemp = c.rawTemp := by
  have hnum := congrArg BitVec.toInt h
  rw [convTemp_toInt, convTemp_toInt] at hnum
  exact BitVec.eq_of_toNat_eq (by omega)

theorem rawRh_of_convRh_eq {b c : Buf} (h : convRh b = convRh c) : b.rawRh = c.rawRh := by
  have hnum := congrArg BitVec.toNat h
  rw [convRh_toNat, convRh_toNat] at hnum
  exact BitVec.eq_of_toNat_eq (by omega)

/-- Settles O51: the numerators are linear in the raw words, the registers hold them exactly, and so each register gives its
raw word back. -/
theorem converterIsInvertible : Obligations.ConverterIsInvertible := by
  refine ⟨fun raw => ⟨tempNumerator_eq raw, ?_, rhNumerator_eq raw, Nat.mul_succ 100 raw, Nat.mul_le_mul_left 100⟩,
    fun b => ⟨rawOfTempNum_convTemp b, rawOfRhNum_convRh b, ?_⟩,
    fun b c htemp hrh => ⟨rawTemp_of_convTemp_eq htemp, rawRh_of_convRh_eq hrh⟩⟩
  · rw [tempNumerator_eq, tempNumerator_eq]
    omega
  · rw [convTemp_toInt, convRh_toNat]
    refine ⟨?_, ?_, ?_⟩ <;> omega

/-! ### The floating view (R136, R137) -/

theorem rn_divisor_isInt {f : FpFormat} (hp : 24 ≤ f.precision) (hw : 8 ≤ f.expBits) :
    (rn f (.ofInt divisor)).IsInt 65535 :=
  rn_exact hp hw Nat.one_pos rfl (by decide)

/-- A whole number of degrees is viewed as itself: `175 * raw` is `(n + 45) * 65535`, and that integer, `65535`, their
quotient and `-45` are all exact. -/
theorem floatTValue_isInt {f : FpFormat} (hp : 24 ≤ f.precision) (hw : 8 ≤ f.expBits) {tn n : Int}
    (htn : tn = n * 65535) (hne : tn ≠ 0) (hlo : -45 ≤ n) (hhi : n ≤ 130) : (floatTValue f tn).IsInt n := by
  have hoffset : (rn f (.ofInt tOffset)).IsInt (-45) := rn_exact hp hw Nat.one_pos rfl (by decide)
  have hraw : (rn f ((rawOfTempNum tn).scale tSpan)).IsInt ((n + 45) * 65535) := by
    refine rn_exact hp hw (Nat.succ_pos _) ?_ (by omega)
    simp only [Frac.scale, rawOfTempNum, tSpan, tOffset, divisor]
    omega
  have hquot := FpValue.div_isInt hp hw hraw (rn_divisor_isInt hp hw) (by decide) rfl (by omega)
  have hsum := FpValue.add_isInt hp hw hoffset hquot (by omega)
  rw [floatTValue, if_neg hne]
  rwa [show -45 + (n + 45) = n by omega] at hsum

/-- A whole number of percent is viewed as itself. -/
theorem floatRHValue_isInt {f : FpFormat} (hp : 24 ≤ f.precision) (hw : 8 ≤ f.expBits) {hn n : Nat}
    (hhn : hn = n * 65535) (hhi : n ≤ 100) : (floatRHValue f hn).IsInt n := by
  have hraw : (rn f ((rawOfRhNum hn).scale rhSpan)).IsInt ((n : Int) * 65535) := by
    refine rn_exact hp hw (Nat.succ_pos _) ?_ (by omega)
    simp only [Frac.scale, rawOfRhNum, rhSpan]
    omega
  exact FpValue.div_isInt hp hw hraw (rn_divisor_isInt hp hw) (by decide) rfl (by omega)

/-- Settles O53: the numerators are whole degrees and whole percents; the reset value's view is `+0.0` by definition. -/
theorem floatViewExactValues : Obligations.FloatViewExactValues :=
  ⟨fun _ hp hw =>
    ⟨floatTValue_isInt hp hw rfl (by decide) (by decide) (by decide),
      floatTValue_isInt hp hw rfl (by decide) (by decide) (by decide),
      floatTValue_isInt hp hw rfl (by decide) (by decide) (by decide),
      floatRHValue_isInt hp hw rfl (by decide), floatRHValue_isInt hp hw rfl (by decide)⟩,
    fun _ => rfl⟩

/-- R136: the rounded integer is the quotient where the remainder is at most half the divisor, else the next one; at the
half it is the even one of the two. -/
theorem roundHalfEven_cases (n d : Nat) :
    ((n : Int) - roundHalfEven n d * d = (n % d : Nat) ∧ 2 * (n % d) ≤ d ∧
      (2 * (n % d) = d → roundHalfEven n d % 2 = 0)) ∨
    ((n : Int) - roundHalfEven n d * d = (n % d : Nat) - d ∧ d ≤ 2 * (n % d) ∧
      (2 * (n % d) = d → roundHalfEven n d % 2 = 0)) := by
  have hdiv : (n : Int) = (n / d : Nat) * d + (n % d : Nat) := by
    exact_mod_cast (Nat.div_add_mod' n d).symm
  by_cases h : d < 2 * (n % d) ∨ (2 * (n % d) = d ∧ n / d % 2 = 1)
  · have hup : roundHalfEven n d = n / d + 1 := if_pos h
    refine .inr ⟨?_, by omega, by omega⟩
    rw [hup]
    push_cast at hdiv ⊢
    linarith
  · have hdown : roundHalfEven n d = n / d := if_neg h
    refine .inl ⟨?_, by omega, by omega⟩
    rw [hdown]
    linarith

/-- Settles O54: the distance is the remainder, or what it lacks to the divisor. -/
theorem roundingIsHalfEven : Obligations.RoundingIsHalfEven := by
  intro n d hd
  have hrem := Nat.mod_lt n hd
  obtain ⟨hdist, hhalf, heven⟩ | ⟨hdist, hhalf, heven⟩ := roundHalfEven_cases n d <;> rw [hdist]
  · exact ⟨by omega, fun htie => heven (by omega)⟩
  · exact ⟨by omega, fun htie => heven (by omega)⟩

end Sys2Proof.Machine
end

section
/-! The instructions that make no bus transfer, in the step that accepts them (R140 to R143). -/

namespace Sys2Proof.Machine

theorem execConstruct_accepted {arg : Byte} {s : State} (hidle : s.seq = .idle) (hmsb : arg.msb = false) :
    execConstruct arg s = .next (succeed 0 (construct (addressOperand arg) s)) := by
  simp [execConstruct, hidle, hmsb]

/-- Settles O24: an operand below 128 has bit 7 clear, and its low seven bits are the address. -/
theorem constructStoresAddress : Obligations.ConstructStoresAddress := by
  intro s arg hidle harg
  have hmsb : arg.msb = false := by
    rw [← Bool.not_eq_true, byte_msb_iff]
    omega
  rw [exec, execConstruct_accepted hidle hmsb, addressOperand_eq]
  rfl

/-- An answer in `IDLE` is one event more and no other change (R88). -/
theorem succeed_of_idle {s : State} (hidle : s.seq = .idle) (p : Payload) :
    succeed p s = { s with ports := { s.ports with trace := s.ports.trace ++ [.response .success p] } } := by
  rw [succeed, State.goto, ← hidle]
  rfl

/-- Settles O26: the payload is the register, which its signed value gives back. -/
theorem gettAnswersTemperature : Obligations.GettAnswersTemperature := by
  intro s arg hidle hconstructed
  rw [exec, execGett, whenReady_of hidle hconstructed, succeed_of_idle hidle, BitVec.ofInt_toInt]
  rfl

/-- R59, R143: the 23 bits of `RH_NUM` below two zeros. -/
theorem getrhPayload_eq (r : Regs) : getrhPayload r = 0#2 ++ r.rhNum :=
  BitVec.setWidth_eq_append (by decide)

/-- Settles O27: the payload is the register, zero-extended. -/
theorem getrhAnswersHumidity : Obligations.GetrhAnswersHumidity := by
  intro s arg hidle hconstructed
  rw [exec, execGetrh, whenReady_of hidle hconstructed, succeed_of_idle hidle, getrhPayload_eq]

end Sys2Proof.Machine
end

section
/-! Requests that fail at once, and operations whose transfer fails (R66, R81, R150 to R155). -/

namespace Sys2Proof.Machine

/-! ### A mode outside its table (R150) -/

/-- The operation whose number stands in bits 11:8 of a request word (R55, R56). -/
theorem ofCode_opField {w : ReqWord} {op : Op} (h : w.toNat / 256 = op.code.toNat) :
    Op.ofCode (opField w) = some op := by
  have hcode : opField w = op.code := BitVec.eq_of_toNat_eq ((fields_toNat w).1.trans h)
  rw [hcode, ofCode_code]

theorem fail_of_idle {s : State} (hidle : s.seq = .idle) (r : Result) :
    fail r s = { s with ports := s.ports.send [.response r 0] } := by
  rw [fail_eq, ← hidle]

/-- R150: a request word of a bus operation without a command word is answered `InvalidMode` in the step that takes it. -/
theorem step_of_catalog_none {s : State} {w : ReqWord} {rest : List ReqWord} {op : BusOp} (hidle : s.seq = .idle)
    (hcon : s.regs.constructed = true) (hreq : s.ports.requests = w :: rest)
    (hop : Op.ofCode (opField w) = some (.bus op)) (hcat : catalog s.cfg op (argField w) = none) :
    step s = .next (fail .invalidMode s.takeRequest) := by
  rw [step_request hidle hreq, acceptWord_eq_fine, fineAcceptWord_bus hop,
    startOperation_none (s := s.takeRequest) hidle hcon hcat, mapNext, advance_idle rfl]

/-- R57, R64: the request words of MEAS and PERIODIC whose mode is outside its table name a bus operation without a command
word. -/
theorem catalog_of_mode_outside {w : ReqWord}
    (h : (w.toNat / 256 = 1 ∧ ¬ (1 ≤ w.toNat % 256 ∧ w.toNat % 256 ≤ 6)) ∨
      (w.toNat / 256 = 2 ∧ ¬ (1 ≤ w.toNat % 256 ∧ w.toNat % 256 ≤ 15))) (c : Config) :
    ∃ op, Op.ofCode (opField w) = some (.bus op) ∧ catalog c op (argField w) = none := by
  obtain ⟨op, hop⟩ : ∃ op, Op.ofCode (opField w) = some (.bus op) := by
    obtain ⟨hcode, _⟩ | ⟨hcode, _⟩ := h
    · exact ⟨.meas, ofCode_opField hcode⟩
    · exact ⟨.periodic, ofCode_opField hcode⟩
  refine ⟨op, hop, not_not.1 fun hne => ?_⟩
  have hword := (catalog_ne_none_iff hop c).1 hne
  omega

/-! ### What an operation has answered -/

/-- Only the phase `RESP` responds (R85, R87). -/
theorem seqStep_adds_no_response {s : State} (hs : s.seq ≠ .resp) :
    AddsOnly (·.isResponse = false) s (seqStep s) := by
  cases hq : s.seq with
  | idle => rw [seqStep_idle hq]; exact .of_trace_eq rfl
  | acq =>
    rw [seqStep_acq hq]
    obtain ⟨_, h⟩ | ⟨_, _, h⟩ := stepAcq_cases s <;> rw [h]
    · exact .of_trace_append (e := .acquire) (by simp) rfl
    · exact .of_trace_eq (by simp)
  | write => rw [seqStep_write hq]; exact .of_trace_append rfl rfl
  | read => rw [seqStep_read hq]; exact .of_trace_append rfl rfl
  | rel =>
    rw [seqStep_rel hq]
    obtain ⟨_, _, h⟩ | ⟨_, h⟩ := stepRel_cases s <;> rw [h]
    · exact ⟨[.release, .delayStart s.cfg.tDelay], by simp, by simp [Event.isResponse]⟩
    · exact .of_trace_append rfl rfl
  | delay =>
    rw [seqStep_delay hq]
    obtain ⟨_, h⟩ | ⟨_, h⟩ := stepDelay_cases s <;> rw [h]
    · exact .of_trace_append rfl rfl
    · exact .of_trace_eq rfl
  | resp => exact absurd hq hs

/-- `t` has written no register since `s` and sent no response. -/
structure Unanswered (s t : State) : Prop where
  regs : t.regs = s.regs
  events : AddsOnly (·.isResponse = false) s t

theorem Unanswered.refl (s : State) : Unanswered s s := ⟨rfl, .of_trace_eq rfl⟩

theorem Unanswered.latched (op : BusOp) (arg : Byte) (c : Word16) (s : State) :
    Unanswered s (latchOperation op arg c s) := ⟨rfl, .of_trace_eq rfl⟩

/-- How an operation that was at `s` stands (R87, R88, R91): unanswered, ended by a `Success`, or failed with an outcome of
the transport. -/
inductive RunStatus (s : State) : State → Prop
  | unanswered {t : State} (h : Unanswered s t) : RunStatus s t
  | succeeded {v t : State} {p : Payload} (h : Unanswered s v) (idle : t.seq = .idle)
      (trace : t.ports.trace = v.ports.trace ++ [.response .success p]) : RunStatus s t
  | failed {v : State} (h : Unanswered s v) (o : BusOutcome) : RunStatus s (fail (resultOf o) v)

theorem RunStatus.seqStep {s t : State} (h : RunStatus s t) : RunStatus s (seqStep t) := by
  cases h with
  | succeeded h hidle htrace => rw [seqStep_idle hidle]; exact .succeeded h hidle htrace
  | failed h o => rw [seqStep_idle rfl]; exact .failed h o
  | unanswered h =>
    by_cases hq : t.seq = .resp
    · rw [seqStep_resp hq]
      obtain ⟨_, he⟩ | ⟨_, he⟩ := stepResp_cases t <;> rw [he]
      · exact .failed h _
      · exact .succeeded h rfl (congrArg Ports.trace (commitAndSucceed_ports t))
    · obtain hon | ⟨hresp, _⟩ := seqStep_cases t
      · exact .unanswered ⟨hon.regs.trans h.regs, h.events.trans (seqStep_adds_no_response hq)⟩
      · exact absurd hresp hq

theorem Unanswered.runStatus_advance {s t : State} (h : Unanswered s t) (n : Nat) : RunStatus s (advance n t) :=
  advance_induction (P := RunStatus s) (fun _ => RunStatus.seqStep) n (.unanswered h)

/-- R75, R150: an instruction of the table is answered at once with `Success`, or has a command word and is run. -/
theorem runStatus_exec {i : Instr} {s t : State} (h : exec i s = .next t) : RunStatus s t := by
  obtain ⟨_, ⟨_, _, _, rfl⟩ | ⟨_, ⟨_, _, rfl⟩ | ⟨_, _, rfl⟩ | ⟨op, c, _, _, rfl⟩⟩⟩ := exec_next h
  case inr.inr.inr => exact (Unanswered.latched op i.arg c s).runStatus_advance maxSteps
  all_goals exact .succeeded (.refl s) rfl rfl

/-! ### Which step answers `InvalidMode` -/

/-- The event is no `InvalidMode` response. -/
def NotInvalidMode (e : Event) : Prop := ∀ p, e ≠ .response .invalidMode p

theorem notInvalidMode_of_not_response {e : Event} (h : e.isResponse = false) : NotInvalidMode e := by
  rintro p rfl
  cases h

theorem notInvalidMode_response {r : Result} (h : r ≠ .invalidMode) (p : Payload) : NotInvalidMode (.response r p) := by
  rintro q he
  cases he
  exact h rfl

/-- R66: the transport has no such outcome, and the engine none of its own once an operation is latched. -/
theorem RunStatus.adds_no_invalidMode {s t : State} (h : RunStatus s t) : AddsOnly NotInvalidMode s t := by
  cases h with
  | unanswered h => exact h.events.mono fun _ => notInvalidMode_of_not_response
  | succeeded h _ htrace =>
    exact (h.events.mono fun _ => notInvalidMode_of_not_response).trans
      (.of_trace_append htrace (notInvalidMode_response (by simp) _))
  | failed h o =>
    exact (h.events.mono fun _ => notInvalidMode_of_not_response).trans
      (.of_trace_append rfl (notInvalidMode_response (resultOf_ne_invalidMode o) _))

/-- Settles O5: a mode outside its table has no command word, and an instruction of the table adds no such response. -/
theorem invalidModeFailsAtOnce : Obligations.InvalidModeFailsAtOnce := by
  refine ⟨fun s w rest hidle hcon hreq hmode => ?_, fun i s t p h hmem => ?_⟩
  · obtain ⟨op, hop, hcat⟩ := catalog_of_mode_outside hmode s.cfg
    rw [step_of_catalog_none hidle hcon hreq hop hcat, fail_of_idle (s := s.takeRequest) hidle, takeRequest_eq hreq]
    rfl
  · obtain ⟨es, he, hes⟩ := (runStatus_exec h).adds_no_invalidMode
    rw [he] at hmem
    exact (List.mem_append.1 hmem).resolve_right fun hnew => hes _ hnew p rfl

/-! ### A failure keeps the registers (R155) -/

/-- If the last event since `s` is a response other than `Success`, the operation has ended with no payload and no register
written. -/
def FailureIsClean (s t : State) : Prop :=
  ∀ (es : List Event) (r : Result) (p : Payload), t.ports.trace = s.ports.trace ++ es ++ [.response r p] →
    r ≠ .success → p = 0 ∧ t.seq = .idle ∧ t.regs = s.regs

/-- Where no response was sent there is no failure. -/
theorem FailureIsClean.of_no_response {s t : State} (h : AddsOnly (·.isResponse = false) s t) : FailureIsClean s t := by
  intro es r p ht _
  rw [List.append_assoc] at ht
  exact absurd (h.of_mem ht (e := .response r p) (by simp)) (by simp [Event.isResponse])

theorem last_response_eq {es fs : List Event} {r r' : Result} {p p' : Payload}
    (h : es ++ [.response r p] = fs ++ [.response r' p']) : r = r' ∧ p = p' := by
  simpa using (List.append_inj' h rfl).2

/-- Where `Success` was the last response there is no failure. -/
theorem FailureIsClean.of_success {s t : State} {before : List Event} {q : Payload}
    (h : t.ports.trace = before ++ [.response .success q]) : FailureIsClean s t := by
  intro es r p ht hr
  obtain ⟨rfl, _⟩ := last_response_eq (h.symm.trans ht)
  exact absurd rfl hr

/-- `fail` responds with zero payload and writes no register. -/
theorem FailureIsClean.of_fail {s v : State} (h : v.regs = s.regs) (r : Result) : FailureIsClean s (fail r v) := by
  intro es r' p ht _
  obtain ⟨_, rfl⟩ := last_response_eq ht
  exact ⟨rfl, rfl, h⟩

theorem RunStatus.failureIsClean {s t : State} (h : RunStatus s t) : FailureIsClean s t := by
  cases h with
  | unanswered h => exact .of_no_response h.events
  | succeeded _ _ htrace => exact .of_success htrace
  | failed h o => exact .of_fail h.regs _

theorem startOperation_failureIsClean {op : BusOp} {arg : Byte} {s t : State}
    (h : startOperation op arg s = .next t) : FailureIsClean s t := by
  obtain ⟨_, _, ⟨_, rfl⟩ | ⟨_, _, rfl⟩⟩ := startOperation_next h
  · exact .of_fail rfl _
  · exact .of_no_response (.of_trace_eq rfl)

/-- Settles O38: of the ways a step can go, each that ends in a failure ends in `fail`. -/
theorem failureKeepsRegisters : Obligations.FailureKeepsRegisters := by
  intro s t es r p h
  have hclean : FailureIsClean s t := by
    obtain ⟨_, rfl⟩ | ⟨_, _, rfl⟩ | ⟨_, w, rest, _, ⟨i, _, hi⟩ | ⟨op, arg, _, hop⟩⟩ := step_next h
    · exact ((Unanswered.refl s).runStatus_advance maxSteps).failureIsClean
    · exact .of_no_response (.of_trace_eq rfl)
    · exact (runStatus_exec hi).failureIsClean
    · exact startOperation_failureIsClean (s := s.takeRequest) hop
  exact hclean es r p

/-! ### A reading instruction whose transfer fails (R81, R151 to R153) -/

/-- The read length of the reading operations, as `RLEN` holds it (R45). -/
theorem readLength_eq_of_reading {op : BusOp} (h : op = .meas ∨ op = .fetch ∨ op = .rdstat) :
    readLength op = if op = .rdstat then 3 else 6 := by
  obtain rfl | rfl | rfl := h <;> rfl

/-- Settles O34: the read is skipped, and the combined outcome is that of the failed write. -/
theorem failedWriteSkipsRead : Obligations.FailedWriteSkipsRead := by
  intro i op s hop hreading hready hfail hno
  obtain ⟨_, hd⟩ := readLength_of_reading hreading
  obtain ⟨cmd, hcmd, hexec⟩ := exec_without_read hop hready (.inr ⟨hfail, hno⟩)
  refine ⟨cmd, hcmd, ?_⟩
  rw [hexec, advance_rel_resp rfl (by simp [hd]), stepResp_of_failed_write hfail, fail_eq,
    readLength_eq_of_reading hreading]
  simp [busAddress, cmdBytes]

/-- R81: a read that fails, or brings another number of bytes than asked, is no success; its result is its own outcome, or
`NoDataAvailable` for the wrong length. -/
theorem classifyRead_of_failure {n : Nat} {a : Answer} (h : a.outcome ≠ .success ∨ a.data.length ≠ n) :
    classifyRead n a ≠ .success ∧
      resultOf (classifyRead n a) = if a.outcome = .success then .noDataAvailable else resultOf a.outcome := by
  by_cases ho : a.outcome = .success
  · have hlen : a.data.length ≠ n := h.resolve_left (not_not.2 ho)
    simp [classifyRead, ho, hlen, resultOf]
  · simp [classifyRead, ho]

/-- R83, R152: after a successful write a failed read is the result. -/
theorem stepResp_of_failed_read {s : State} (hwrite : s.lat.wout = .success) (hreads : s.lat.rlen ≠ 0)
    (hread : s.lat.rout ≠ .success) : stepResp s = fail (resultOf s.lat.rout) s := by
  have hc := combined_of_read hwrite hreads
  rw [stepResp_of_failure (hc ▸ hread), hc]

/-- Settles O36: after a successful write the result is the outcome of the read, as it is classified. -/
theorem failedReadFailsOperation : Obligations.FailedReadFailsOperation := by
  intro i op s hop hreading hready hwrite hread
  obtain ⟨hrlen, hd⟩ := readLength_of_reading hreading
  have hreads : readLength op ≠ 0 := (rlen_ne_zero_iff _).2 (by rw [hrlen]; split <;> omega)
  rw [← hrlen] at hread
  obtain ⟨hfailed, hresult⟩ := classifyRead_of_failure hread
  obtain ⟨cmd, hcmd, hexec⟩ := exec_with_read hop hready hreads (.inl hwrite)
  refine ⟨cmd, _, hcmd, hexec, ?_⟩
  rw [advance_rel_resp rfl (by simp [hd]), stepResp_of_failed_read hwrite hreads hfailed, State.readOutcome, hresult,
    hrlen, hwrite]
  exact ⟨rfl, rfl, rfl, rfl, by simp [Ports.emit_eq_send, busAddress, cmdBytes]⟩

end Sys2Proof.Machine
end

section
/-! Before the first CONSTRUCT, and the state it leaves (R27, R28, R171, R173). -/

namespace Sys2Proof.Machine

/-! ### The engine that is not constructed (R173) -/

theorem whenReady_unconstructed {s : State} (hidle : s.seq = .idle) (hcon : s.regs.constructed = false)
    (o : Host.Outcome State Fault Refusal) : whenReady s o = .refused .notConstructed := by
  simp [whenReady, hidle, hcon]

theorem startOperation_unconstructed {s : State} (hidle : s.seq = .idle) (hcon : s.regs.constructed = false)
    (op : BusOp) (arg : Byte) : startOperation op arg s = .refused .notConstructed :=
  whenReady_unconstructed hidle hcon _

/-- R173: every instruction but CONSTRUCT asks whether the engine is constructed. -/
theorem exec_unconstructed {i : Instr} {s : State} (hidle : s.seq = .idle) (hcon : s.regs.constructed = false)
    (hop : i.op ≠ .construct) : exec i s = .refused .notConstructed := by
  cases ho : i.op with
  | bus op => rw [exec_bus ho, runOperation, startOperation_unconstructed hidle hcon]
  | construct => exact absurd ho hop
  | gett | getrh =>
    cases i <;> simp [Instr.op] at ho
    exact whenReady_unconstructed hidle hcon _

/-- R55, R56: only a word with `op` 0 is decoded to CONSTRUCT. -/
theorem op_ne_construct_of_decode {w : ReqWord} {i : Instr} (hd : decode w = .ok i) (hw : 256 ≤ w.toNat) :
    i.op ≠ .construct := by
  intro hi
  have hcode : i.op.code = opField w := code_of_ofCode (ofCode_of_decode hd).1
  have hop : 0 = w.toNat / 256 := by rw [← (fields_toNat w).1, ← hcode, hi]; rfl
  omega

/-- R67, R173: a word with another `op` is reserved, or is refused because the engine is not constructed. -/
theorem acceptWord_unconstructed {w : ReqWord} {s : State} (hidle : s.seq = .idle)
    (hcon : s.regs.constructed = false) (hw : 256 ≤ w.toNat) : ∃ r, acceptWord w s = .refused r := by
  cases hd : decode w with
  | ok i => exact ⟨_, (acceptWord_ok hd s).trans (exec_unconstructed hidle hcon (op_ne_construct_of_decode hd hw))⟩
  | error e =>
    cases e with
    | reservedOp => exact ⟨_, acceptWord_reservedOp hd s⟩
    | reservedAddress => exact ⟨_, acceptWord_reservedAddress hd s⟩
    | invalidMode op arg =>
      exact ⟨.notConstructed, by simp [acceptWord, hd, startOperation_unconstructed hidle hcon]⟩

/-- R55, R57: a word below 128 is CONSTRUCT with a 7-bit address. -/
theorem decode_construct {w : ReqWord} (hw : w.toNat < 128) :
    (argField w).msb = false ∧ decode w = .ok (.construct (argField w)) := by
  have hop : w.toNat / 256 = Op.construct.code.toNat := Nat.div_eq_of_lt (by omega)
  have hmsb : (argField w).msb = false := by
    rw [← Bool.not_eq_true, byte_msb_iff, (fields_toNat w).2]
    omega
  exact ⟨hmsb, by simp [decode, ofCode_opField hop, decodeOperand, hmsb]⟩

/-- Settles O10: the instruction, then the word, by what each is decoded to; CONSTRUCT does not ask whether the engine is
constructed. -/
theorem unconstructedEngineRefuses : Obligations.UnconstructedEngineRefuses := by
  intro s hidle hcon
  refine ⟨fun i hop => exec_unconstructed hidle hcon hop, fun w rest hreq hw => ?other, fun w rest hreq hw => ?construct⟩
  case other =>
    rw [step_request hidle hreq]
    exact acceptWord_unconstructed (s := s.takeRequest) hidle hcon hw
  case construct =>
    obtain ⟨hmsb, hd⟩ := decode_construct hw
    rw [step_request hidle hreq, acceptWord_ok hd]
    exact ⟨_, execConstruct_accepted (s := s.takeRequest) hidle hmsb⟩

/-! ### The state CONSTRUCT leaves (R27, R171) -/

/-- Settles O42: at power-on CONSTRUCT stores the address of the reset state, and the rest of the two states is the same. -/
theorem resetIsConstruct : Obligations.ResetIsConstruct :=
  ⟨rfl, rfl, rfl, rfl, rfl, rfl, constructStoresAddress State.powerOn 0x44 rfl (by decide)⟩

end Sys2Proof.Machine
end

section
/-! The decoder and the encoder undo each other (R55 to R57, R67, R72). -/

namespace Sys2Proof

/-- R57, R67: operand decoding reads an instruction back from its operation and its operand byte; only CONSTRUCT needs it to
be well formed, the address being refused otherwise. -/
theorem decodeOperand_op_arg {i : Instr} (hwf : WellFormed i) : decodeOperand i.op i.arg = .ok i := by
  cases i with
  | construct arg =>
    have hmsb : arg.msb = false := by simpa [WellFormed, Instr.wellFormed] using hwf
    simp [Instr.op, Instr.arg, decodeOperand, hmsb]
  | _ => rfl

/-- What a word is decoded to is well formed (R57, R67). -/
theorem wellFormed_of_decode {w : ReqWord} {i : Instr} (h : decode w = .ok i) : WellFormed i := by
  unfold decode at h
  split at h
  · obtain ⟨_, _, hwf⟩ := decodeOperand_ok h
    exact hwf
  · cases h

/-- The fields of a word are the operation and the operand byte of what it is decoded to (R55). -/
theorem encode_of_decode {w : ReqWord} {i : Instr} (h : decode w = .ok i) : encode i = w := by
  obtain ⟨hop, harg⟩ := Machine.ofCode_of_decode h
  rw [encode, requestWord, code_of_ofCode hop, harg, ← word_eq_fields w]

/-- Settles O1: a request word is decoded by its operation's operand decoding, which reads the instruction back. -/
theorem decodeInvertsEncode : Obligations.DecodeInvertsEncode := fun i hwf =>
  (decode_requestWord i.op i.arg).trans (decodeOperand_op_arg hwf)

/-- Settles O2: operand decoding answers only well-formed instructions, and the word is its two fields. -/
theorem encodeInvertsDecode : Obligations.EncodeInvertsDecode := fun _ _ h =>
  ⟨wellFormed_of_decode h, encode_of_decode h⟩

end Sys2Proof

namespace Sys2Proof.Machine

/-- Settles O43: the engine is idle, with the registers CONSTRUCT leaves and no reply latched. -/
theorem resetMeetsInvariant : Obligations.ResetMeetsInvariant :=
  .of_idle rfl rfl (readingConsistent_afterConstruct _) (heaterMirrors_afterConstruct _) (Nat.zero_le 6)

end Sys2Proof.Machine
end
